-- ==== Sys2Proof/Word.lean ====
section
/-! DEFINITION. The words of the CHIP-8 core and the numbers of its general registers
(spec 00_scope.md R7, R8, R9). Every value is unsigned (R8). -/

namespace Sys2Proof

/-- Four bits: one hexadecimal digit of an opcode (30_encoding.md R81). -/
abbrev Nibble := BitVec 4

/-- Eight bits: a byte of memory, a general register, a timer (10_state.md R20). -/
abbrev Byte := BitVec 8

/-- Twelve bits: the index register and the `NNN` immediate (10_state.md R24, 30_encoding.md R81). -/
abbrev Addr := BitVec 12

/-- Sixteen bits: an opcode, high byte first (30_encoding.md R80). -/
abbrev Opcode := BitVec 16

/-- Sixteen bits: the program counter (10_state.md R25). -/
abbrev PcWord := BitVec 16

/-- The number of a general register `V0`..`VF` (10_state.md R21, R23). -/
abbrev RegIx := Fin 16

/-- The flag register `VF` (10_state.md R22). -/
abbrev vf : RegIx := 15

/-- The register `V0`, implicit operand of `BNNN` (10_state.md R23). -/
abbrev v0 : RegIx := 0

end Sys2Proof
end

