-- ==== Sys2Proof/Syntax.lean ====
section
/-! DEFINITION. The instructions of the core: one constructor per row of the opcode map
(30_encoding.md R92, opcode_table.json), in the map's order. Operands have the widths of the
opcode fields `X`, `Y`, `N`, `NN`, `NNN` (R81). The bits an instruction has but does not use are
kept as a field `u` (`CLS`, `RET`: bits 11:8, R85) or `y` (`SHR`, `SHL`: bits 7:4, R82), so that
every legal opcode has exactly one instruction. -/

namespace Sys2Proof

inductive Instr where
  /-- `00E0` clear screen -/
  | cls (u : Nibble)
  /-- `00EE` return -/
  | ret (u : Nibble)
  /-- `1NNN` jump -/
  | jp (nnn : Addr)
  /-- `2NNN` call -/
  | call (nnn : Addr)
  /-- `3XNN` skip-eq-imm -/
  | seImm (x : RegIx) (nn : Byte)
  /-- `4XNN` skip-ne-imm -/
  | sneImm (x : RegIx) (nn : Byte)
  /-- `5XY0` skip-eq-reg -/
  | seReg (x y : RegIx)
  /-- `6XNN` load-imm -/
  | ldImm (x : RegIx) (nn : Byte)
  /-- `7XNN` add-imm -/
  | addImm (x : RegIx) (nn : Byte)
  /-- `8XY0` move -/
  | ldReg (x y : RegIx)
  /-- `8XY1` or -/
  | or (x y : RegIx)
  /-- `8XY2` and -/
  | and (x y : RegIx)
  /-- `8XY3` xor -/
  | xor (x y : RegIx)
  /-- `8XY4` add -/
  | addReg (x y : RegIx)
  /-- `8XY5` sub -/
  | sub (x y : RegIx)
  /-- `8XY6` shift-right; `y` is decoded but not used -/
  | shr (x : RegIx) (y : RegIx)
  /-- `8XY7` sub-reverse -/
  | subn (x y : RegIx)
  /-- `8XYE` shift-left; `y` is decoded but not used -/
  | shl (x : RegIx) (y : RegIx)
  /-- `9XY0` skip-ne-reg -/
  | sneReg (x y : RegIx)
  /-- `ANNN` load-index -/
  | ldI (nnn : Addr)
  /-- `BNNN` jump-offset -/
  | jpV0 (nnn : Addr)
  /-- `CXNN` random -/
  | rnd (x : RegIx) (nn : Byte)
  /-- `DXYN` draw sprite -/
  | drw (x y : RegIx) (n : Nibble)
  /-- `EX9E` skip-if-key-down -/
  | skp (x : RegIx)
  /-- `EXA1` skip-if-key-up -/
  | sknp (x : RegIx)
  /-- `FX07` read-delay -/
  | ldVxDT (x : RegIx)
  /-- `FX0A` wait-key -/
  | ldVxK (x : RegIx)
  /-- `FX15` set-delay -/
  | ldDTVx (x : RegIx)
  /-- `FX18` set-sound -/
  | ldSTVx (x : RegIx)
  /-- `FX1E` add-to-index -/
  | addI (x : RegIx)
  /-- `FX29` font-address -/
  | ldF (x : RegIx)
  /-- `FX33` to-BCD -/
  | ldB (x : RegIx)
  /-- `FX55` store-block -/
  | stRegs (x : RegIx)
  /-- `FX65` load-block -/
  | ldRegs (x : RegIx)
  deriving DecidableEq, Repr

end Sys2Proof
end

