-- ==== Sys2Proof/WellFormed.lean ====
section
/-! DEFINITION. Well-formed instructions and ROM images. Every operand value the fields admit is
legal in every instruction (30_encoding.md R83), and the operand types of Syntax.lean admit exactly
those values. What is left to check is the canonical spelling of the bits an instruction does not
use, which an assembler emits as 0 (R85, R93). The machine runs the other spellings too
(R85, R159, R161): no meaning asks for `wellFormed` (DESIGN CHOICE, log 22). -/

namespace Sys2Proof

/-- The bits the instruction does not use are 0: bits 11:8 of `CLS` and `RET`, the `Y` nibble of
`SHR` and `SHL` (30_encoding.md R93). -/
def Instr.wellFormed : Instr → Bool
  | .cls u => u == 0
  | .ret u => u == 0
  | .shr _ y => y == 0
  | .shl _ y => y == 0
  | .jp _ => true
  | .call _ => true
  | .seImm _ _ => true
  | .sneImm _ _ => true
  | .seReg _ _ => true
  | .ldImm _ _ => true
  | .addImm _ _ => true
  | .ldReg _ _ => true
  | .or _ _ => true
  | .and _ _ => true
  | .xor _ _ => true
  | .addReg _ _ => true
  | .sub _ _ => true
  | .subn _ _ => true
  | .sneReg _ _ => true
  | .ldI _ => true
  | .jpV0 _ => true
  | .rnd _ _ => true
  | .drw _ _ _ => true
  | .skp _ => true
  | .sknp _ => true
  | .ldVxDT _ => true
  | .ldVxK _ => true
  | .ldDTVx _ => true
  | .ldSTVx _ => true
  | .addI _ => true
  | .ldF _ => true
  | .ldB _ => true
  | .stRegs _ => true
  | .ldRegs _ => true

end Sys2Proof
end

