-- ==== Sys2Proof/Decode.lean ====
section
/-! DEFINITION. Opcode fields, the decoder (total on any opcode and any bytes, rejecting by name),
the encoder, and the opcode map (30_encoding.md R80 to R92). -/

namespace Sys2Proof

/-! ### Fields of an opcode (R81) -/

/-- The primary class, bits 15:12. -/
def Opcode.c (w : Opcode) : Nibble := w.extractLsb' 12 4

/-- The field `X`, bits 11:8. -/
def Opcode.x (w : Opcode) : Nibble := w.extractLsb' 8 4

/-- The field `Y`, bits 7:4. -/
def Opcode.y (w : Opcode) : Nibble := w.extractLsb' 4 4

/-- The field `N`, bits 3:0. -/
def Opcode.n (w : Opcode) : Nibble := w.extractLsb' 0 4

/-- The field `NN`, bits 7:0. -/
def Opcode.nn (w : Opcode) : Byte := w.extractLsb' 0 8

/-- The field `NNN`, bits 11:0. -/
def Opcode.nnn (w : Opcode) : Addr := w.extractLsb' 0 12

/-- The register a 4-bit field selects (10_state.md R23). -/
def regOfNibble (b : Nibble) : RegIx := b.toFin

/-- The 4-bit field that selects a register (10_state.md R23). -/
def nibbleOfReg (r : RegIx) : Nibble := BitVec.ofFin r

/-! ### Decoding -/

/-- Why bytes hold no instruction. All but `truncated` are illegal opcodes (R90). -/
inductive DecodeError where
  /-- fewer than two bytes (R80) -/
  | truncated
  /-- class 0 with a low byte other than `0xE0`, `0xEE`: the unsupported `0NNN` (R85, R90) -/
  | illegalClass0 (nn : Byte)
  /-- class 5 with a low nibble other than 0 (R89) -/
  | illegalClass5 (n : Nibble)
  /-- class 8 with a low nibble in 8..0xD or 0xF (R86) -/
  | illegalClass8 (n : Nibble)
  /-- class 9 with a low nibble other than 0 (R89) -/
  | illegalClass9 (n : Nibble)
  /-- class E with a low byte other than `0x9E`, `0xA1` (R87) -/
  | illegalClassE (nn : Byte)
  /-- class F with a low byte that selects no instruction (R88) -/
  | illegalClassF (nn : Byte)
  deriving DecidableEq, Repr

/-- Class 0: selected by the low byte alone, bits 11:8 are not examined (R85). DESIGN CHOICE of the
spec (decisions D9, D21): log 10, log 15. -/
def decodeClass0 (w : Opcode) : Except DecodeError Instr :=
  if w.nn = 0xE0#8 then .ok (.cls w.x)
  else if w.nn = 0xEE#8 then .ok (.ret w.x)
  else .error (.illegalClass0 w.nn)

/-- Class 5: the low nibble is 0 (R89). -/
def decodeClass5 (w : Opcode) : Except DecodeError Instr :=
  if w.n = 0x0#4 then .ok (.seReg (regOfNibble w.x) (regOfNibble w.y))
  else .error (.illegalClass5 w.n)

/-- Class 8: selected by the low nibble (R86). -/
def decodeClass8 (w : Opcode) : Except DecodeError Instr :=
  let x := regOfNibble w.x
  let y := regOfNibble w.y
  match w.n.toNat with
  | 0x0 => .ok (.ldReg x y)
  | 0x1 => .ok (.or x y)
  | 0x2 => .ok (.and x y)
  | 0x3 => .ok (.xor x y)
  | 0x4 => .ok (.addReg x y)
  | 0x5 => .ok (.sub x y)
  | 0x6 => .ok (.shr x y)
  | 0x7 => .ok (.subn x y)
  | 0xE => .ok (.shl x y)
  | _ => .error (.illegalClass8 w.n)

/-- Class 9: the low nibble is 0 (R89). -/
def decodeClass9 (w : Opcode) : Except DecodeError Instr :=
  if w.n = 0x0#4 then .ok (.sneReg (regOfNibble w.x) (regOfNibble w.y))
  else .error (.illegalClass9 w.n)

/-- Class E: selected by the low byte (R87). -/
def decodeClassE (w : Opcode) : Except DecodeError Instr :=
  if w.nn = 0x9E#8 then .ok (.skp (regOfNibble w.x))
  else if w.nn = 0xA1#8 then .ok (.sknp (regOfNibble w.x))
  else .error (.illegalClassE w.nn)

/-- Class F: selected by the low byte (R88). -/
def decodeClassF (w : Opcode) : Except DecodeError Instr :=
  let x := regOfNibble w.x
  if w.nn = 0x07#8 then .ok (.ldVxDT x)
  else if w.nn = 0x0A#8 then .ok (.ldVxK x)
  else if w.nn = 0x15#8 then .ok (.ldDTVx x)
  else if w.nn = 0x18#8 then .ok (.ldSTVx x)
  else if w.nn = 0x1E#8 then .ok (.addI x)
  else if w.nn = 0x29#8 then .ok (.ldF x)
  else if w.nn = 0x33#8 then .ok (.ldB x)
  else if w.nn = 0x55#8 then .ok (.stRegs x)
  else if w.nn = 0x65#8 then .ok (.ldRegs x)
  else .error (.illegalClassF w.nn)

/-- Primary dispatch on bits 15:12 (R84). -/
def decodeOpcode (w : Opcode) : Except DecodeError Instr :=
  match w.c.toNat with
  | 0x0 => decodeClass0 w
  | 0x1 => .ok (.jp w.nnn)
  | 0x2 => .ok (.call w.nnn)
  | 0x3 => .ok (.seImm (regOfNibble w.x) w.nn)
  | 0x4 => .ok (.sneImm (regOfNibble w.x) w.nn)
  | 0x5 => decodeClass5 w
  | 0x6 => .ok (.ldImm (regOfNibble w.x) w.nn)
  | 0x7 => .ok (.addImm (regOfNibble w.x) w.nn)
  | 0x8 => decodeClass8 w
  | 0x9 => decodeClass9 w
  | 0xA => .ok (.ldI w.nnn)
  | 0xB => .ok (.jpV0 w.nnn)
  | 0xC => .ok (.rnd (regOfNibble w.x) w.nn)
  | 0xD => .ok (.drw (regOfNibble w.x) (regOfNibble w.y) w.n)
  | 0xE => decodeClassE w
  | _ => decodeClassF w

/-- Two bytes as one 16-bit value, `hi` in bits 15:8 (00_scope.md R8: `hi ++ lo`). -/
def joinBytes (hi lo : Byte) : BitVec 16 := hi.setWidth 16 <<< 8 ||| lo.setWidth 16

/-- Bits 15:8 of a 16-bit value. -/
def highByte (w : BitVec 16) : Byte := w.extractLsb' 8 8

/-- Bits 7:0 of a 16-bit value. -/
def lowByte (w : BitVec 16) : Byte := w.extractLsb' 0 8

/-- The opcode two bytes make, the byte at the lower address in bits 15:8 (20_memory.md R55,
40_cycle.md R102). -/
def opcodeOfBytes (hi lo : Byte) : Opcode := joinBytes hi lo

/-- The two bytes of an opcode, in the order they lie in memory (20_memory.md R55). -/
def bytesOfOpcode (w : Opcode) : Byte × Byte := (highByte w, lowByte w)

/-- The instruction the first two bytes hold, and the bytes after it (30_encoding.md R80). -/
def decode : List Byte → Except DecodeError (Instr × List Byte)
  | hi :: lo :: rest =>
    match decodeOpcode (opcodeOfBytes hi lo) with
    | .ok i => .ok (i, rest)
    | .error e => .error e
  | [_] => .error .truncated
  | [] => .error .truncated

/-- The instruction the decoder reads from an opcode-table row's bits `w`: the row is one 16-bit
word, laid out high byte first (20_memory.md R55); bits at and above `nbits` are 0. -/
def decodeTableWord (nbits w : Nat) : Option Instr :=
  let bytes := bytesOfOpcode (BitVec.ofNat 16 (w % 2 ^ nbits))
  match decode [bytes.1, bytes.2] with
  | .ok (i, _) => some i
  | .error _ => none

/-! ### Encoding -/

/-- Format `A`: class and `NNN` (R82). -/
def formatA (c : Nibble) (nnn : Addr) : Opcode :=
  c.setWidth 16 <<< 12 ||| nnn.setWidth 16

/-- Format `I`: class, `X`, `NN`; also formats `Z` and `F`, whose low byte is the function (R82). -/
def formatI (c x : Nibble) (nn : Byte) : Opcode :=
  c.setWidth 16 <<< 12 ||| x.setWidth 16 <<< 8 ||| nn.setWidth 16

/-- Formats `R` and `D`: class, `X`, `Y`, and the function or `N` (R82). -/
def formatR (c x y n : Nibble) : Opcode :=
  c.setWidth 16 <<< 12 ||| x.setWidth 16 <<< 8 ||| y.setWidth 16 <<< 4 ||| n.setWidth 16

/-- The opcode of an instruction (R82, R92). -/
def encode : Instr → Opcode
  | .cls u => formatI 0x0 u 0xE0
  | .ret u => formatI 0x0 u 0xEE
  | .jp nnn => formatA 0x1 nnn
  | .call nnn => formatA 0x2 nnn
  | .seImm x nn => formatI 0x3 (nibbleOfReg x) nn
  | .sneImm x nn => formatI 0x4 (nibbleOfReg x) nn
  | .seReg x y => formatR 0x5 (nibbleOfReg x) (nibbleOfReg y) 0x0
  | .ldImm x nn => formatI 0x6 (nibbleOfReg x) nn
  | .addImm x nn => formatI 0x7 (nibbleOfReg x) nn
  | .ldReg x y => formatR 0x8 (nibbleOfReg x) (nibbleOfReg y) 0x0
  | .or x y => formatR 0x8 (nibbleOfReg x) (nibbleOfReg y) 0x1
  | .and x y => formatR 0x8 (nibbleOfReg x) (nibbleOfReg y) 0x2
  | .xor x y => formatR 0x8 (nibbleOfReg x) (nibbleOfReg y) 0x3
  | .addReg x y => formatR 0x8 (nibbleOfReg x) (nibbleOfReg y) 0x4
  | .sub x y => formatR 0x8 (nibbleOfReg x) (nibbleOfReg y) 0x5
  | .shr x y => formatR 0x8 (nibbleOfReg x) (nibbleOfReg y) 0x6
  | .subn x y => formatR 0x8 (nibbleOfReg x) (nibbleOfReg y) 0x7
  | .shl x y => formatR 0x8 (nibbleOfReg x) (nibbleOfReg y) 0xE
  | .sneReg x y => formatR 0x9 (nibbleOfReg x) (nibbleOfReg y) 0x0
  | .ldI nnn => formatA 0xA nnn
  | .jpV0 nnn => formatA 0xB nnn
  | .rnd x nn => formatI 0xC (nibbleOfReg x) nn
  | .drw x y n => formatR 0xD (nibbleOfReg x) (nibbleOfReg y) n
  | .skp x => formatI 0xE (nibbleOfReg x) 0x9E
  | .sknp x => formatI 0xE (nibbleOfReg x) 0xA1
  | .ldVxDT x => formatI 0xF (nibbleOfReg x) 0x07
  | .ldVxK x => formatI 0xF (nibbleOfReg x) 0x0A
  | .ldDTVx x => formatI 0xF (nibbleOfReg x) 0x15
  | .ldSTVx x => formatI 0xF (nibbleOfReg x) 0x18
  | .addI x => formatI 0xF (nibbleOfReg x) 0x1E
  | .ldF x => formatI 0xF (nibbleOfReg x) 0x29
  | .ldB x => formatI 0xF (nibbleOfReg x) 0x33
  | .stRegs x => formatI 0xF (nibbleOfReg x) 0x55
  | .ldRegs x => formatI 0xF (nibbleOfReg x) 0x65

/-- The two bytes of an instruction, in the order they lie in memory. -/
def encodeBytes (i : Instr) : List Byte :=
  [(bytesOfOpcode (encode i)).1, (bytesOfOpcode (encode i)).2]

/-! ### The opcode map (R92) -/

/-- One row of the opcode map: an opcode `w` is the row's when `w &&& mask = pattern`. -/
structure OpcodeRow where
  mnemonic : String
  pattern : Opcode
  mask : Opcode
  deriving DecidableEq, Repr

/-- The row's instruction covers the opcode (R92). -/
def OpcodeRow.covers (r : OpcodeRow) (w : Opcode) : Bool := w &&& r.mask == r.pattern

/-- The row of the opcode map an instruction belongs to (R92). -/
def rowOf : Instr → OpcodeRow
  | .cls _ => ⟨"CLS", 0x00E0, 0xF0FF⟩
  | .ret _ => ⟨"RET", 0x00EE, 0xF0FF⟩
  | .jp _ => ⟨"JP_nnn", 0x1000, 0xF000⟩
  | .call _ => ⟨"CALL_nnn", 0x2000, 0xF000⟩
  | .seImm _ _ => ⟨"SE_Vx__nn", 0x3000, 0xF000⟩
  | .sneImm _ _ => ⟨"SNE_Vx__nn", 0x4000, 0xF000⟩
  | .seReg _ _ => ⟨"SE_Vx__Vy", 0x5000, 0xF00F⟩
  | .ldImm _ _ => ⟨"LD_Vx__nn", 0x6000, 0xF000⟩
  | .addImm _ _ => ⟨"ADD_Vx__nn", 0x7000, 0xF000⟩
  | .ldReg _ _ => ⟨"LD_Vx__Vy", 0x8000, 0xF00F⟩
  | .or _ _ => ⟨"OR_Vx__Vy", 0x8001, 0xF00F⟩
  | .and _ _ => ⟨"AND_Vx__Vy", 0x8002, 0xF00F⟩
  | .xor _ _ => ⟨"XOR_Vx__Vy", 0x8003, 0xF00F⟩
  | .addReg _ _ => ⟨"ADD_Vx__Vy", 0x8004, 0xF00F⟩
  | .sub _ _ => ⟨"SUB_Vx__Vy", 0x8005, 0xF00F⟩
  | .shr _ _ => ⟨"SHR_Vx", 0x8006, 0xF00F⟩
  | .subn _ _ => ⟨"SUBN_Vx__Vy", 0x8007, 0xF00F⟩
  | .shl _ _ => ⟨"SHL_Vx", 0x800E, 0xF00F⟩
  | .sneReg _ _ => ⟨"SNE_Vx__Vy", 0x9000, 0xF00F⟩
  | .ldI _ => ⟨"LD_I__nnn", 0xA000, 0xF000⟩
  | .jpV0 _ => ⟨"JP_V0__nnn", 0xB000, 0xF000⟩
  | .rnd _ _ => ⟨"RND_Vx__nn", 0xC000, 0xF000⟩
  | .drw _ _ _ => ⟨"DRW_Vx__Vy__n", 0xD000, 0xF000⟩
  | .skp _ => ⟨"SKP_Vx", 0xE09E, 0xF0FF⟩
  | .sknp _ => ⟨"SKNP_Vx", 0xE0A1, 0xF0FF⟩
  | .ldVxDT _ => ⟨"LD_Vx__DT", 0xF007, 0xF0FF⟩
  | .ldVxK _ => ⟨"LD_Vx__K", 0xF00A, 0xF0FF⟩
  | .ldDTVx _ => ⟨"LD_DT__Vx", 0xF015, 0xF0FF⟩
  | .ldSTVx _ => ⟨"LD_ST__Vx", 0xF018, 0xF0FF⟩
  | .addI _ => ⟨"ADD_I__Vx", 0xF01E, 0xF0FF⟩
  | .ldF _ => ⟨"LD_F__Vx", 0xF029, 0xF0FF⟩
  | .ldB _ => ⟨"LD_B__Vx", 0xF033, 0xF0FF⟩
  | .stRegs _ => ⟨"LD__I___Vx", 0xF055, 0xF0FF⟩
  | .ldRegs _ => ⟨"LD_Vx___I", 0xF065, 0xF0FF⟩

/-- The opcode map: the 34 rows in the source's order (R92). -/
def opcodeMap : List OpcodeRow :=
  [rowOf (.cls 0), rowOf (.ret 0), rowOf (.jp 0), rowOf (.call 0), rowOf (.seImm 0 0),
   rowOf (.sneImm 0 0), rowOf (.seReg 0 0), rowOf (.ldImm 0 0), rowOf (.addImm 0 0)] ++
  [rowOf (.ldReg 0 0), rowOf (.or 0 0), rowOf (.and 0 0), rowOf (.xor 0 0), rowOf (.addReg 0 0),
   rowOf (.sub 0 0), rowOf (.shr 0 0), rowOf (.subn 0 0), rowOf (.shl 0 0)] ++
  [rowOf (.sneReg 0 0), rowOf (.ldI 0), rowOf (.jpV0 0), rowOf (.rnd 0 0), rowOf (.drw 0 0 0),
   rowOf (.skp 0), rowOf (.sknp 0)] ++
  [rowOf (.ldVxDT 0), rowOf (.ldVxK 0), rowOf (.ldDTVx 0), rowOf (.ldSTVx 0), rowOf (.addI 0),
   rowOf (.ldF 0), rowOf (.ldB 0), rowOf (.stRegs 0), rowOf (.ldRegs 0)]

/-- No row of the opcode map covers the opcode: it is illegal (R90, R92). -/
def Opcode.illegal (w : Opcode) : Bool := opcodeMap.all fun r => !r.covers w

end Sys2Proof
end

