-- ==== Sys2Proof/Config.lean ====
section
/-! DEFINITION. The free values of the model: what the host and the core's collaborators choose.
Each is an opaque constant, so a theorem holds whatever it is. The fixed parameters of
00_scope.md R7 stand in Sys2Proof/Machine/Params.lean. -/

namespace Sys2Proof

/-- The answer of the random-byte port to the `n`-th port request: any byte (60_exceptions.md R227,
93_implementation_defined.md U2). DESIGN CHOICE, safe: log 1. -/
opaque Config.randomByte : Nat → Byte

/-- The answer of the key-state port to the `n`-th port request, asked about key number `k`, all
8 bits of it: any bit (60_exceptions.md R225, 93_implementation_defined.md U3, U9).
DESIGN CHOICE, safe: log 1. -/
opaque Config.keyDown : Nat → Byte → Bool

/-- The key number the key-wait port delivers to the `n`-th port request, if it delivers one to it:
any byte (60_exceptions.md R226, 93_implementation_defined.md U3, U16). Whether it delivers one is
`State.noKeyAt`. DESIGN CHOICE, safe: log 1 and log 4. -/
opaque Config.waitKey : Nat → Byte

/-- How many timer ticks the host requests just before the `n`-th cycle request: any number
(60_exceptions.md R221, the open parameter `CYCLES_PER_TICK`). DESIGN CHOICE, safe: log 2. -/
opaque Config.ticksBefore : Nat → Nat

end Sys2Proof
end

