-- ==== Sys2Proof/Machine/Params.lean ====
section
/-! DEFINITION. The fixed parameters of the hardware (00_scope.md R7) and the reset contents of
memory (10_state.md R39, 20_memory.md R62). -/

namespace Sys2Proof.Machine

/-- `MEM_SIZE`: addresses are reduced modulo this before every access (20_memory.md R52). -/
def memSize : Nat := 4096

/-- `PROG_ORIGIN`: load address and reset value of `pc` (00_scope.md R7). -/
def progOrigin : PcWord := 0x200

/-- `PROG_END`: the last address an instruction may start at (00_scope.md R7, 10_state.md R26). -/
def progEnd : PcWord := 0xE9F

/-- `PROG_CAPACITY`: the longest ROM accepted, `PROG_END + 1 - PROG_ORIGIN` (00_scope.md R7).
DESIGN CHOICE of the spec (decision D15): log 14. -/
def progCapacity : Nat := 3232

/-- `STACK_BASE`: the first byte of the call-stack area (00_scope.md R7). -/
def stackBase : Nat := 0xEA0

/-- `STACK_ENTRY_BYTES` (00_scope.md R7). DESIGN CHOICE of the spec (decision D5): log 6. -/
def stackEntryBytes : Nat := 2

/-- `STACK_CAPACITY`, in entries (00_scope.md R7). DESIGN CHOICE of the spec (decision D4): log 6. -/
def stackCapacity : Nat := 48

/-- `FONT_BASE` (00_scope.md R7). -/
def fontBase : Nat := 0x000

/-- `GLYPH_BYTES` (00_scope.md R7). -/
def glyphBytes : Nat := 5

/-- `INSTR_BYTES` (00_scope.md R7). -/
def instrBytes : PcWord := 2

/-- `FONT`: the sixteen 5-byte glyphs, digit 0 first, top row first (20_memory.md R62).
PRESUMED, unsafe (the spec's own table is from general knowledge, decision D7): log 8. -/
def font : List Byte :=
  [0xF0, 0x90, 0x90, 0x90, 0xF0] ++ [0x20, 0x60, 0x20, 0x20, 0x70] ++
  [0xF0, 0x10, 0xF0, 0x80, 0xF0] ++ [0xF0, 0x10, 0xF0, 0x10, 0xF0] ++
  [0x90, 0x90, 0xF0, 0x10, 0x10] ++ [0xF0, 0x80, 0xF0, 0x10, 0xF0] ++
  [0xF0, 0x80, 0xF0, 0x90, 0xF0] ++ [0xF0, 0x10, 0x20, 0x40, 0x40] ++
  [0xF0, 0x90, 0xF0, 0x90, 0xF0] ++ [0xF0, 0x90, 0xF0, 0x10, 0xF0] ++
  [0xF0, 0x90, 0xF0, 0x90, 0x90] ++ [0xE0, 0x90, 0xE0, 0x90, 0xE0] ++
  [0xF0, 0x80, 0x80, 0x80, 0xF0] ++ [0xE0, 0x90, 0x90, 0x90, 0xE0] ++
  [0xF0, 0x80, 0xF0, 0x80, 0xF0] ++ [0xF0, 0x80, 0xF0, 0x80, 0x80]

/-- What a byte of memory holds after reset (10_state.md R39): the font from address 0, zero
elsewhere. An address that memory does not list reads as this. -/
def resetByte (a : Nat) : Byte := font.getD a 0

end Sys2Proof.Machine
end

