-- ==== Sys2Proof/Machine/State.lean ====
section
/-! DEFINITION. The architectural state of one core (10_state.md R20) as plain data, the reasons a
step can stop, and the reset state (10_state.md R39). -/

namespace Sys2Proof.Machine

/-- The four fatal conditions (60_exceptions.md R200, R205). -/
inductive HaltCause where
  /-- the fetched opcode matches no row of the opcode map (60_exceptions.md R201) -/
  | invalidOpcode
  /-- a call with the stack full (60_exceptions.md R202) -/
  | stackOverflow
  /-- a return with the stack empty (60_exceptions.md R203) -/
  | stackUnderflow
  /-- a cycle begins with `pc` outside the program area (60_exceptions.md R204) -/
  | pcOutOfBounds
  deriving DecidableEq, Repr

/-- `STATUS` (10_state.md R35). -/
inductive Status where
  | ready
  | halted (cause : HaltCause)
  deriving DecidableEq, Repr

/-- Memory: (address, byte) pairs, addresses strictly rising and below 4096, no pair equal to what
an unlisted address reads as (`resetByte`). `Memory.wf` in Ops.lean says so. -/
abbrev Memory := List Host.Cell

/-- The framebuffer: 32 rows, top first, of 64 pixels, leftmost first (10_state.md R34;
the names are log 21). -/
abbrev Screen := Vector (Vector Bool 64) 32

/-- The machine. The first nine fields are the whole architectural state (10_state.md R20); the
last three are the model's own and stand for what is outside the core (log 1, log 2, log 4). -/
structure State where
  /-- `V[0]`..`V[15]` (10_state.md R21) -/
  v : Vector Byte 16
  /-- `I` (10_state.md R24) -/
  i : Addr
  /-- `pc` (10_state.md R25) -/
  pc : PcWord
  /-- `DT` (10_state.md R28) -/
  dt : Byte
  /-- `ST` (10_state.md R29) -/
  st : Byte
  /-- `SP`, the number of saved return addresses (10_state.md R30) -/
  sp : Nat
  /-- `Mem` (10_state.md R36) -/
  mem : Memory
  /-- `FB` (10_state.md R34) -/
  fb : Screen
  /-- `STATUS` (10_state.md R35) -/
  status : Status
  /-- the model's own: how many port requests have been answered (log 1) -/
  draws : Nat
  /-- the model's own: how many cycles have been requested (log 2) -/
  cycles : Nat
  /-- the model's own: the number of the port request that, if it asks for a key, no key is ever
  delivered to; `none` where every wait ends (log 4) -/
  noKeyAt : Option Nat
  deriving DecidableEq, Repr

/-- Why a step answers no next state. -/
inductive Fault where
  /-- Raised by a cycle requested while `STATUS = Halted(cause)`: nothing executes, nothing changes,
  and the host is told the cause again (40_cycle.md R106); the run is over (60_exceptions.md R207).
  Safe: no claim about a further state can be proved. -/
  | halted (cause : HaltCause)
  /-- Raised by `FX0A` when the key-wait port never delivers a key: the cycle stays in progress for
  ever, and there is no next state (46_keypad.md R189, R190; 93_implementation_defined.md U15: stuck).
  Safe: no claim about a further state can be proved. -/
  | noKey
  deriving DecidableEq, Repr

/-- Why the model gives an instruction no meaning. -/
inductive Refusal where
  /-- Raised by an arm of `exec` whose instruction has no meaning yet. Safe: nothing is proved of
  it. No arm raises it now. -/
  | notModelled (mnemonic : String)
  deriving DecidableEq, Repr

/-- The state after construction and after reset (10_state.md R39, 70_reset_and_hazards.md R240). -/
def State.reset : State where
  v := Vector.replicate 16 0
  i := 0
  pc := progOrigin
  dt := 0
  st := 0
  sp := 0
  mem := []
  fb := Vector.replicate 32 (Vector.replicate 64 false)
  status := .ready
  draws := 0
  cycles := 0
  noKeyAt := none

end Sys2Proof.Machine
end

