-- ==== Sys2Proof/Machine/Ops.lean ====
section
/-! DEFINITION. The named operations over registers, memory, the call stack, the framebuffer, the
timers and the ports, and the entry into a fatal condition. Every meaning is written over these. -/

namespace Sys2Proof.Machine

/-! ### Memory -/

/-- The byte listed at an address, if any. -/
def Memory.find : Memory → Nat → Option Byte
  | [], _ => none
  | c :: m, a => if c.1 = a then some c.2 else Memory.find m a

/-- The byte at an address: listed, or else the reset contents (10_state.md R39). -/
def Memory.read (m : Memory) (a : Nat) : Byte := (Memory.find m a).getD (resetByte a)

/-- Take an address out of the list. -/
def Memory.remove : Memory → Nat → Memory
  | [], _ => []
  | c :: m, a => if c.1 = a then Memory.remove m a else c :: Memory.remove m a

/-- Put a byte into the list at its place, over the one listed there. -/
def Memory.insert : Memory → Nat → Byte → Memory
  | [], a, b => [(a, b)]
  | c :: m, a, b =>
    if c.1 < a then c :: Memory.insert m a b
    else if c.1 = a then (a, b) :: m
    else (a, b) :: c :: m

/-- Store a byte, keeping the canonical form: a byte equal to the reset contents is not listed. -/
def Memory.write (m : Memory) (a : Nat) (b : Byte) : Memory :=
  if b = resetByte a then Memory.remove m a else Memory.insert m a b

/-- Addresses strictly rise from above `lo`, stay below 4096, and no pair repeats the reset
contents. -/
def Memory.wfFrom : Nat → Memory → Bool
  | _, [] => true
  | lo, c :: m => decide (lo ≤ c.1) && decide (c.1 < memSize) && c.2 != resetByte c.1 &&
      Memory.wfFrom (c.1 + 1) m

/-- The canonical form of memory. DESIGN CHOICE: log 19. -/
def Memory.wf (m : Memory) : Bool := Memory.wfFrom 0 m

/-- `MemRead(addr, 1)`: the address is masked to 12 bits, no access fails (00_scope.md R10,
20_memory.md R52). DESIGN CHOICE of the spec (decision D19): log 17. -/
def State.readByte (s : State) (a : Nat) : Byte := s.mem.read (a % memSize)

/-- `MemWrite(addr, 1, v)`: the address is masked to 12 bits, no byte is protected (00_scope.md R10,
20_memory.md R52, R61). DESIGN CHOICE of the spec (decisions D12, D19): log 13, log 17. -/
def State.writeByte (s : State) (a : Nat) (b : Byte) : State :=
  { s with mem := s.mem.write (a % memSize) b }

/-! ### Registers -/

/-- Read `V[r]` (00_scope.md R9). -/
def State.reg (s : State) (r : RegIx) : Byte := s.v[r.val]

/-- `V[r] <- b` (00_scope.md R9). -/
def State.setReg (s : State) (r : RegIx) (b : Byte) : State := { s with v := s.v.set r.val b }

/-- `I <- a`; every write is 12 bits (10_state.md R24). -/
def State.setIndex (s : State) (a : Addr) : State := { s with i := a }

/-- `pc <- p`, never masked (10_state.md R25). -/
def State.setPc (s : State) (p : PcWord) : State := { s with pc := p }

/-- `pc <- pc + 2`: the advance after fetch, and the extra one of a taken skip
(40_cycle.md R103, 43_skip.md R140). -/
def State.advancePc (s : State) : State := { s with pc := s.pc + instrBytes }

/-- A taken skip advances once more (43_skip.md R140). -/
def State.skipIf (s : State) (taken : Bool) : State :=
  { s with pc := if taken then s.pc + instrBytes else s.pc }

/-- `DT <- b` (10_state.md R28). -/
def State.setDelay (s : State) (b : Byte) : State := { s with dt := b }

/-- `ST <- b` (10_state.md R29). -/
def State.setSound (s : State) (b : Byte) : State := { s with st := b }

/-- `SP <- n` (10_state.md R30). -/
def State.setDepth (s : State) (n : Nat) : State := { s with sp := n }

/-! ### Framebuffer -/

/-- Column `n`, reduced modulo 64 (41_display.md R123). -/
def colIx (n : Nat) : Fin 64 := Fin.ofNat 64 n

/-- Row `n`, reduced modulo 32 (41_display.md R123). -/
def rowIx (n : Nat) : Fin 32 := Fin.ofNat 32 n

/-- The pixel of a framebuffer in column `x` of row `y` (10_state.md R34). -/
def Screen.at (fb : Screen) (x : Fin 64) (y : Fin 32) : Bool := fb[y.val][x.val]

/-- The framebuffer with one pixel inverted (41_display.md R122). -/
def Screen.flip (fb : Screen) (x : Fin 64) (y : Fin 32) : Screen :=
  fb.set y.val (fb[y.val].set x.val (!Screen.at fb x y))

/-- The framebuffer with every pixel unset (41_display.md R121). -/
def Screen.clear : Screen := Vector.replicate 32 (Vector.replicate 64 false)

/-- `FB[y][x]` (10_state.md R34). -/
def State.pixel (s : State) (x : Fin 64) (y : Fin 32) : Bool := Screen.at s.fb x y

/-- `FB <- fb`. -/
def State.setScreen (s : State) (fb : Screen) : State := { s with fb := fb }

/-! ### The call stack (10_state.md R30 to R33) -/

/-- Where entry `k` of the call stack lies, its high byte first (10_state.md R33).
DESIGN CHOICE of the spec (decision D5): log 6. -/
def stackAddr (k : Nat) : Nat := stackBase + stackEntryBytes * k

/-- `Push(a)` (10_state.md R31): the overflow test comes before any write. -/
def State.push (s : State) (a : PcWord) : Except HaltCause State :=
  if s.sp = stackCapacity then .error .stackOverflow
  else .ok (((s.writeByte (stackAddr s.sp) (highByte a)).writeByte
    (stackAddr s.sp + 1) (lowByte a)).setDepth (s.sp + 1))

/-- The return address entry `k` of the call stack holds at this moment (10_state.md R32). -/
def State.stackEntry (s : State) (k : Nat) : PcWord :=
  joinBytes (s.readByte (stackAddr k)) (s.readByte (stackAddr k + 1))

/-- `Pop()` (10_state.md R32): the underflow test comes before any change, and the bytes stay in
memory. -/
def State.pop (s : State) : Except HaltCause (PcWord × State) :=
  if s.sp = 0 then .error .stackUnderflow
  else .ok (s.stackEntry (s.sp - 1), s.setDepth (s.sp - 1))

/-! ### Fatal conditions: entry and return (60_exceptions.md R206 to R211) -/

/-- `raise Halt(c)`: `STATUS <- Halted(c)` and nothing else; nothing is saved and control goes
nowhere (60_exceptions.md R206). There is no return: only `State.hostReset` leaves the halted state
(60_exceptions.md R210). The other state keeps the values 60_exceptions.md R207 gives: log 3. -/
def State.raiseHalt (s : State) (c : HaltCause) : State := { s with status := .halted c }

/-- The end of an execute phase that may raise a fatal condition: the state it made, or the state it
started from with the condition raised (40_cycle.md R105, 60_exceptions.md R208). -/
def State.orHalt (s : State) (r : Except HaltCause State) : Host.Outcome State Fault Refusal :=
  match r with
  | .ok t => .next t
  | .error c => .next (s.raiseHalt c)

/-- The number the spec gives a cause (60_exceptions.md R205). -/
def HaltCause.code : HaltCause → Nat
  | .invalidOpcode => 1
  | .stackOverflow => 2
  | .stackUnderflow => 3
  | .pcOutOfBounds => 4

/-- The number the spec gives a status: 0 for `Ready` (60_exceptions.md R205). -/
def Status.code : Status → Nat
  | .ready => 0
  | .halted c => c.code

/-! ### Timers (60_exceptions.md R220) -/

/-- A timer after `n` ticks: it counts towards zero and never below. -/
def timerAfter (n : Nat) (b : Byte) : Byte := if b = 0 then 0 else BitVec.ofNat 8 (b.toNat - n)

/-- `n` timer ticks in a row; none has an effect on a halted core (60_exceptions.md R220, R222). -/
def State.ticks (s : State) (n : Nat) : State :=
  match s.status with
  | .ready => { s with dt := timerAfter n s.dt, st := timerAfter n s.st }
  | .halted _ => s

/-- `TimerTick()` (60_exceptions.md R220). -/
def State.timerTick (s : State) : State := s.ticks 1

/-- What happens before a requested cycle: the ticks the host asked for since the last one, a free
number of them (60_exceptions.md R221, log 2). -/
def State.beforeCycle (s : State) : State :=
  { s.ticks (Config.ticksBefore s.cycles) with cycles := s.cycles + 1 }

/-! ### Ports (60_exceptions.md R225 to R227) -/

/-- `RandomByte()`: the random-byte port's answer to the request made now (60_exceptions.md R227). -/
def State.randomByte (s : State) : Byte := Config.randomByte s.draws

/-- `KeyDown(k)`: the key-state port's answer to the request made now (60_exceptions.md R225). -/
def State.keyDown (s : State) (k : Byte) : Bool := Config.keyDown s.draws k

/-- `WaitKey()`: the key the key-wait port delivers to the request made now (60_exceptions.md R226),
or `none` where it never delivers one, so that the request does not return (00_scope.md R10,
46_keypad.md R190, log 4). -/
def State.waitKey (s : State) : Option Byte :=
  if s.noKeyAt = some s.draws then none else some (Config.waitKey s.draws)

/-- One more port request has been answered (log 1). -/
def State.answered (s : State) : State := { s with draws := s.draws + 1 }

/-! ### Fetch (40_cycle.md R101, R102) -/

/-- The range check on the whole 16-bit `pc` (40_cycle.md R101). DESIGN CHOICE of the spec
(decision D2): log 5. -/
def State.pcInRange (s : State) : Bool :=
  decide (progOrigin.toNat ≤ s.pc.toNat) && decide (s.pc.toNat ≤ progEnd.toNat)

/-- The opcode at `pc`: two bytes, each address masked by itself, high byte first
(40_cycle.md R102, 20_memory.md R55). Any address will do, odd ones too (decision D3): log 20. -/
def State.fetch (s : State) : Opcode :=
  opcodeOfBytes (s.readByte s.pc.toNat) (s.readByte (s.pc.toNat + 1))

/-- The state with an opcode stored where the next cycle fetches. -/
def State.placeOpcode (s : State) (w : Opcode) : State :=
  (s.writeByte s.pc.toNat (bytesOfOpcode w).1).writeByte (s.pc.toNat + 1) (bytesOfOpcode w).2

end Sys2Proof.Machine
end

