-- ==== Sys2Proof/Machine/Operands.lean ====
section
/-! DEFINITION. The operand forms of the instructions: jump targets, data addresses, register
ranges, font addresses, decimal digits and sprites (30_encoding.md R83, 45_index_memory.md R177). -/

namespace Sys2Proof.Machine

/-- A jump or call target: `NNN` as it stands (30_encoding.md R83, 42_control_flow.md R132). -/
def absTarget (nnn : Addr) : PcWord := nnn.setWidth 16

/-- The target of `BNNN`: `V[0] + NNN` in 16 bits, not masked to 12 (42_control_flow.md R134). -/
def State.offsetTarget (s : State) (nnn : Addr) : PcWord :=
  (s.reg v0).setWidth 16 + nnn.setWidth 16

/-- The effective address of element `k` of a transfer, `(I + k) mod 4096`
(45_index_memory.md R177). -/
def State.dataAddr (s : State) (k : Nat) : Nat := (s.i.toNat + k) % memSize

/-- The general register numbered `k`, for the range `V[0]..V[X]` (10_state.md R23). -/
def regNo (k : Nat) : RegIx := Fin.ofNat 16 k

/-- `MemWrite(I + k, 1, V[k])` for `k` from 0 below `n`, in rising order (45_index_memory.md R175). -/
def State.storeRange (s : State) : Nat → State
  | 0 => s
  | k + 1 => (s.storeRange k).writeByte (s.dataAddr k) (s.reg (regNo k))

/-- `V[k] <- MemRead(I + k, 1)` for `k` from 0 below `n`, in rising order
(45_index_memory.md R176). -/
def State.loadRange (s : State) : Nat → State
  | 0 => s
  | k + 1 => (s.loadRange k).setReg (regNo k) (s.readByte (s.dataAddr k))

/-- The sum `I + b` modulo 4096 (45_index_memory.md R172). -/
def indexSum (i : Addr) (b : Byte) : Addr := i + b.setWidth 12

/-- The address of the glyph for a digit, its low nibble alone (45_index_memory.md R173).
DESIGN CHOICE of the spec (decision D8): log 9. -/
def glyphAddr (b : Byte) : Addr :=
  BitVec.ofNat 12 (fontBase + glyphBytes * (b.extractLsb' 0 4).toNat)

/-- The hundreds digit of a byte (45_index_memory.md R174). -/
def hundreds (b : Byte) : Byte := BitVec.ofNat 8 (b.toNat / 100)

/-- The tens digit of a byte (45_index_memory.md R174). -/
def tens (b : Byte) : Byte := BitVec.ofNat 8 (b.toNat / 10 % 10)

/-- The ones digit of a byte (45_index_memory.md R174). -/
def ones (b : Byte) : Byte := BitVec.ofNat 8 (b.toNat % 10)

/-! ### Sprites (41_display.md R122, R123) -/

/-- Invert one pixel and note a collision if it was set (41_display.md R122). -/
def plot (c : Screen × Bool) (x : Fin 64) (y : Fin 32) : Screen × Bool :=
  (Screen.flip c.1 x y, c.2 || Screen.at c.1 x y)

/-- The first `k` pixels of a sprite row, bit 7 leftmost, at column `x0` of row `y`; the columns
wrap (41_display.md R122, R123). -/
def drawBits (x0 : Nat) (y : Fin 32) (row : Byte) (c : Screen × Bool) : Nat → Screen × Bool
  | 0 => c
  | k + 1 =>
    let d := drawBits x0 y row c k
    if row.getLsbD (7 - k) then plot d (colIx (x0 + k)) y else d

/-- The first `r` rows of the sprite at `I`, at column `x0` and row `y0`; the rows wrap
(41_display.md R122, R123). -/
def State.drawRows (s : State) (x0 y0 : Nat) (c : Screen × Bool) : Nat → Screen × Bool
  | 0 => c
  | r + 1 => drawBits x0 (rowIx (y0 + r)) (s.readByte (s.dataAddr r)) (s.drawRows x0 y0 c r) 8

/-- The framebuffer after drawing the `n`-row sprite at `I` at column `x0` and row `y0`, and
whether a pixel went from set to unset (41_display.md R122). -/
def State.drawn (s : State) (x0 y0 : Byte) (n : Nibble) : Screen × Bool :=
  s.drawRows x0.toNat y0.toNat (s.fb, false) n.toNat

end Sys2Proof.Machine
end

