-- ==== Sys2Proof/Machine/ControlFlow.lean ====
section
/-! DEFINITION. Control transfer instructions (42_control_flow.md). Each starts with `pc` already
advanced (R130). -/

namespace Sys2Proof.Machine

/-- `00EE` return: `pc <- Pop()`, all 16 bits, or `StackUnderflow` (42_control_flow.md R131). -/
def execRet (s : State) : Host.Outcome State Fault Refusal :=
  s.orHalt (s.pop.map fun p => p.2.setPc p.1)

/-- `1NNN` jump (42_control_flow.md R132). -/
def execJp (nnn : Addr) (s : State) : Host.Outcome State Fault Refusal :=
  .next (s.setPc (absTarget nnn))

/-- `2NNN` call: `Push(pc)`, then the jump, or `StackOverflow` (42_control_flow.md R133). -/
def execCall (nnn : Addr) (s : State) : Host.Outcome State Fault Refusal :=
  s.orHalt ((s.push s.pc).map fun t => t.setPc (absTarget nnn))

/-- `BNNN` jump-offset (42_control_flow.md R134). -/
def execJpV0 (nnn : Addr) (s : State) : Host.Outcome State Fault Refusal :=
  .next (s.setPc (s.offsetTarget nnn))

end Sys2Proof.Machine
end

