-- ==== Sys2Proof/Machine/Flags.lean ====
section
/-! DEFINITION. The arithmetic of the general registers and every flag computation: carry, no
borrow, bit shifted out, collision; and the two orders in which flag and result are written
(44_load_alu.md R163, R164). -/

namespace Sys2Proof.Machine

/-- A flag as the byte written to `VF`: 0 or 1, bits 7:1 zero (10_state.md R22). -/
def flagByte (b : Bool) : Byte := if b then 1 else 0

/-- The exact sum of two bytes, 9 bits (44_load_alu.md R157). -/
def addSum (a b : Byte) : BitVec 9 := a.setWidth 9 + b.setWidth 9

/-- The stored sum, bits 7:0 (44_load_alu.md R157). -/
def addResult (a b : Byte) : Byte := (addSum a b).extractLsb' 0 8

/-- The carry out of bit 7, bit 8 of the sum (44_load_alu.md R157). -/
def addCarry (a b : Byte) : Byte := flagByte ((addSum a b).getLsbD 8)

/-- The stored difference, modulo 256 (44_load_alu.md R158, R160). -/
def subResult (a b : Byte) : Byte := a - b

/-- The no-borrow flag: 1 when `a ≥ b` (44_load_alu.md R158, R160). -/
def subNoBorrow (a b : Byte) : Byte := flagByte (decide (b ≤ a))

/-- The value shifted right by one, bit 7 zero (44_load_alu.md R159). -/
def shrResult (a : Byte) : Byte := a >>> 1

/-- The bit a right shift puts out, bit 0 (44_load_alu.md R159). -/
def shrFlag (a : Byte) : Byte := a &&& 1

/-- The value shifted left by one, modulo 256 (44_load_alu.md R161). -/
def shlResult (a : Byte) : Byte := a <<< 1

/-- The bit a left shift puts out, bit 7 (44_load_alu.md R161). -/
def shlFlag (a : Byte) : Byte := flagByte (a.getLsbD 7)

/-- Result first, then `VF`: the order of `8XY4` (44_load_alu.md R157, R164).
DESIGN CHOICE of the spec for `X = 0xF` (decision D10): log 11. -/
def State.setResultThenFlag (s : State) (x : RegIx) (result flag : Byte) : State :=
  (s.setReg x result).setReg vf flag

/-- `VF` first, then the result: the order of `8XY5`, `8XY6`, `8XY7`, `8XYE`
(44_load_alu.md R158, R164). DESIGN CHOICE of the spec for `X = 0xF` (decision D10): log 11. -/
def State.setFlagThenResult (s : State) (x : RegIx) (result flag : Byte) : State :=
  (s.setReg vf flag).setReg x result

end Sys2Proof.Machine
end

