-- ==== Sys2Proof/Machine/Display.lean ====
section
/-! DEFINITION. Display instructions (41_display.md). -/

namespace Sys2Proof.Machine

/-- `00E0` clear screen (41_display.md R121). -/
def execCls (s : State) : Host.Outcome State Fault Refusal := .next (s.setScreen Screen.clear)

/-- `DXYN` draw sprite: all reads first, the pixels, then `VF` (41_display.md R122, R123). -/
def execDrw (x y : RegIx) (n : Nibble) (s : State) : Host.Outcome State Fault Refusal :=
  .next ((s.setScreen (s.drawn (s.reg x) (s.reg y) n).1).setReg vf
    (flagByte (s.drawn (s.reg x) (s.reg y) n).2))

end Sys2Proof.Machine
end

