-- ==== Sys2Proof/Machine/IndexMemory.lean ====
section
/-! DEFINITION. Index register and memory instructions (45_index_memory.md). -/

namespace Sys2Proof.Machine

/-- `ANNN` load-index (45_index_memory.md R171). -/
def execLdI (nnn : Addr) (s : State) : Host.Outcome State Fault Refusal := .next (s.setIndex nnn)

/-- `FX1E` add-to-index, modulo 4096, no flag (45_index_memory.md R172). -/
def execAddI (x : RegIx) (s : State) : Host.Outcome State Fault Refusal :=
  .next (s.setIndex (indexSum s.i (s.reg x)))

/-- `FX29` font-address (45_index_memory.md R173). -/
def execLdF (x : RegIx) (s : State) : Host.Outcome State Fault Refusal :=
  .next (s.setIndex (glyphAddr (s.reg x)))

/-- `FX33` to-BCD (45_index_memory.md R174). -/
def execLdB (x : RegIx) (s : State) : Host.Outcome State Fault Refusal :=
  .next (((s.writeByte (s.dataAddr 0) (hundreds (s.reg x))).writeByte
    (s.dataAddr 1) (tens (s.reg x))).writeByte (s.dataAddr 2) (ones (s.reg x)))

/-- `FX55` store-block: `V[0]` to `V[X]`, `X + 1` registers (45_index_memory.md R175). -/
def execStRegs (x : RegIx) (s : State) : Host.Outcome State Fault Refusal :=
  .next (s.storeRange (x.val + 1))

/-- `FX65` load-block: `V[0]` to `V[X]`, `X + 1` registers (45_index_memory.md R176). -/
def execLdRegs (x : RegIx) (s : State) : Host.Outcome State Fault Refusal :=
  .next (s.loadRange (x.val + 1))

end Sys2Proof.Machine
end

