-- ==== Sys2Proof/Machine/Keypad.lean ====
section
/-! DEFINITION. Keypad instructions (46_keypad.md). The port answers are free values (R186, log 1). -/

namespace Sys2Proof.Machine

/-- `EX9E` skip-if-key-down: all 8 bits of `V[X]` go to the port (46_keypad.md R187). -/
def execSkp (x : RegIx) (s : State) : Host.Outcome State Fault Refusal :=
  .next (s.skipIf (s.keyDown (s.reg x))).answered

/-- `EXA1` skip-if-key-up (46_keypad.md R188). -/
def execSknp (x : RegIx) (s : State) : Host.Outcome State Fault Refusal :=
  .next (s.skipIf (!s.keyDown (s.reg x))).answered

/-- `FX0A` wait-key: one atomic step that takes the delivered key, whole, and is enabled only when one
is delivered; otherwise the cycle never completes (46_keypad.md R189, R190, log 4). -/
def execLdVxK (x : RegIx) (s : State) : Host.Outcome State Fault Refusal :=
  match s.waitKey with
  | some k => .next (s.setReg x k).answered
  | none => .fault .noKey

end Sys2Proof.Machine
end

