-- ==== Sys2Proof/Machine/LoadAlu.lean ====
section
/-! DEFINITION. Register load, arithmetic and logic instructions (44_load_alu.md). -/

namespace Sys2Proof.Machine

/-- `6XNN` load-imm (44_load_alu.md R151). -/
def execLdImm (x : RegIx) (nn : Byte) (s : State) : Host.Outcome State Fault Refusal :=
  .next (s.setReg x nn)

/-- `7XNN` add-imm: wraps, `VF` is no flag here (44_load_alu.md R152). -/
def execAddImm (x : RegIx) (nn : Byte) (s : State) : Host.Outcome State Fault Refusal :=
  .next (s.setReg x (s.reg x + nn))

/-- `8XY0` move (44_load_alu.md R153). -/
def execLdReg (x y : RegIx) (s : State) : Host.Outcome State Fault Refusal :=
  .next (s.setReg x (s.reg y))

/-- `8XY1` or (44_load_alu.md R154). -/
def execOr (x y : RegIx) (s : State) : Host.Outcome State Fault Refusal :=
  .next (s.setReg x (s.reg x ||| s.reg y))

/-- `8XY2` and (44_load_alu.md R155). -/
def execAnd (x y : RegIx) (s : State) : Host.Outcome State Fault Refusal :=
  .next (s.setReg x (s.reg x &&& s.reg y))

/-- `8XY3` xor (44_load_alu.md R156). -/
def execXor (x y : RegIx) (s : State) : Host.Outcome State Fault Refusal :=
  .next (s.setReg x (s.reg x ^^^ s.reg y))

/-- `8XY4` add: the sum, then the carry (44_load_alu.md R157). -/
def execAddReg (x y : RegIx) (s : State) : Host.Outcome State Fault Refusal :=
  .next (s.setResultThenFlag x (addResult (s.reg x) (s.reg y)) (addCarry (s.reg x) (s.reg y)))

/-- `8XY5` sub: no borrow, then `V[X] - V[Y]` (44_load_alu.md R158). -/
def execSub (x y : RegIx) (s : State) : Host.Outcome State Fault Refusal :=
  .next (s.setFlagThenResult x (subResult (s.reg x) (s.reg y)) (subNoBorrow (s.reg x) (s.reg y)))

/-- `8XY6` shift-right of `V[X]` in place (44_load_alu.md R159). -/
def execShr (x : RegIx) (s : State) : Host.Outcome State Fault Refusal :=
  .next (s.setFlagThenResult x (shrResult (s.reg x)) (shrFlag (s.reg x)))

/-- `8XY7` sub-reverse: no borrow, then `V[Y] - V[X]` (44_load_alu.md R160). -/
def execSubn (x y : RegIx) (s : State) : Host.Outcome State Fault Refusal :=
  .next (s.setFlagThenResult x (subResult (s.reg y) (s.reg x)) (subNoBorrow (s.reg y) (s.reg x)))

/-- `8XYE` shift-left of `V[X]` in place (44_load_alu.md R161). -/
def execShl (x : RegIx) (s : State) : Host.Outcome State Fault Refusal :=
  .next (s.setFlagThenResult x (shlResult (s.reg x)) (shlFlag (s.reg x)))

/-- `CXNN` random: one byte from the port, masked (44_load_alu.md R162). -/
def execRnd (x : RegIx) (nn : Byte) (s : State) : Host.Outcome State Fault Refusal :=
  .next (s.setReg x (s.randomByte &&& nn)).answered

end Sys2Proof.Machine
end

