-- ==== Sys2Proof/Machine/Timers.lean ====
section
/-! DEFINITION. Timer instructions (47_timers.md). -/

namespace Sys2Proof.Machine

/-- `FX07` read-delay (47_timers.md R194). -/
def execLdVxDT (x : RegIx) (s : State) : Host.Outcome State Fault Refusal := .next (s.setReg x s.dt)

/-- `FX15` set-delay (47_timers.md R195). -/
def execLdDTVx (x : RegIx) (s : State) : Host.Outcome State Fault Refusal :=
  .next (s.setDelay (s.reg x))

/-- `FX18` set-sound (47_timers.md R196). -/
def execLdSTVx (x : RegIx) (s : State) : Host.Outcome State Fault Refusal :=
  .next (s.setSound (s.reg x))

end Sys2Proof.Machine
end

