-- ==== Sys2Proof/Machine/Cycle.lean ====
section
/-! DEFINITION. The whole fetch-decode-execute cycle (40_cycle.md R107). -/

namespace Sys2Proof.Machine

/-- The tests in the order of 40_cycle.md R109: halted, `pc` range, then fetch and advance, legality
of the opcode, and the execute phase. A cycle on a halted core executes nothing and tells the host
the cause (40_cycle.md R106): the fault outcome of 60_exceptions.md R207 (log 3). -/
def State.cycle (s : State) : Host.Outcome State Fault Refusal :=
  match s.status with
  | .halted c => .fault (.halted c)
  | .ready =>
    if s.pcInRange then
      match decodeOpcode s.fetch with
      | .ok i => exec i s.advancePc
      | .error _ => .next (s.advancePc.raiseHalt .invalidOpcode)
    else .next (s.raiseHalt .pcOutOfBounds)

end Sys2Proof.Machine
end

