-- ==== Sys2Proof/Machine/Step.lean ====
section
/-! DEFINITION. One step of the machine: the ticks the host asked for, then one cycle request. -/

namespace Sys2Proof.Machine

/-- One cycle request (40_cycle.md R107), after the timer ticks the host requested since the last
one, a free number of them (60_exceptions.md R221, log 2). -/
def step (s : State) : Host.Outcome State Fault Refusal := s.beforeCycle.cycle

/-- `s` with the instruction whose opcode-table bits are `w` stored where `step` fetches next: one
16-bit word at `pc`, high byte first (20_memory.md R55, log 18). -/
def State.withFetchWord (s : State) (nbits w : Nat) : State :=
  s.placeOpcode (BitVec.ofNat 16 (w % 2 ^ nbits))

end Sys2Proof.Machine
end

