-- ==== Sys2Proof/Machine/Requests.lean ====
section
/-! DEFINITION. What the host can ask of the core between cycles (60_exceptions.md R224): reset, ROM
load, cycle, timer tick, and the two read-outs. Each is one atomic operation. -/

namespace Sys2Proof.Machine

/-- `Reset()`: every piece of architectural state to its reset value, whatever the status
(70_reset_and_hazards.md R241). The model's own fields stay, since the collaborators are outside
the core and their later answers are not the earlier ones over again (log 7). -/
def State.hostReset (s : State) : State :=
  { State.reset with draws := s.draws, cycles := s.cycles, noKeyAt := s.noKeyAt }

/-- Store bytes at rising addresses. -/
def State.writeBlock (s : State) : Nat → List Byte → State
  | _, [] => s
  | a, b :: bs => (s.writeByte a b).writeBlock (a + 1) bs

/-- The ROM fits the program area (70_reset_and_hazards.md R245). -/
def romFits (rom : List Byte) : Bool := decide (rom.length ≤ progCapacity)

/-- `load_block(0x200, bytes)`: `none` is the refusal `RomTooLarge`, which changes nothing
(70_reset_and_hazards.md R244 to R246). -/
def State.load (s : State) (rom : List Byte) : Option State :=
  if romFits rom then some ((s.writeBlock progOrigin.toNat rom).setPc progOrigin) else none

/-- The framebuffer read-out: 2048 pixels, pixel `(x, y)` at `64*y + x` (60_exceptions.md R228). -/
def State.snapshot (s : State) : List Bool := (s.fb.toList.map Vector.toList).flatten

/-- A request of the host (60_exceptions.md R224). -/
inductive Request where
  | reset
  | load (rom : List Byte)
  | cycle
  | timerTick
  | readFramebuffer
  | readStatus
  deriving DecidableEq, Repr

/-- What the host is told. -/
inductive Reply where
  | done
  | romTooLarge
  | status (st : Status)
  | frame (pixels : List Bool)
  deriving DecidableEq, Repr

/-- Serve a cycle request. A cycle on a halted core changes nothing and tells the same cause
(40_cycle.md R106). A cycle that waits for a key no one delivers never returns: `none`
(46_keypad.md R190). -/
def State.serveCycle (s : State) : Option (Reply × State) :=
  match s.cycle with
  | .next t => some (.status t.status, t)
  | .fault (.halted c) => some (.status (.halted c), s)
  | .fault .noKey => none
  | .refused _ => none

/-- Serve one request: what the host is told, and the state after; `none` where the request never
returns. -/
def State.serve (s : State) (r : Request) : Option (Reply × State) :=
  match r with
  | .reset => some (.done, s.hostReset)
  | .load rom =>
    match s.load rom with
    | some t => some (.done, t)
    | none => some (.romTooLarge, s)
  | .cycle => s.serveCycle
  | .timerTick => some (.done, s.timerTick)
  | .readFramebuffer => some (.frame s.snapshot, s)
  | .readStatus => some (.status s.status, s)

/-- Serve a schedule of requests, in order: any interleaving of cycles, ticks, resets and loads
(60_exceptions.md R221, R224). While a cycle waits for a key the core accepts no other request, so one
that never returns ends the service: `none` (46_keypad.md R190). -/
def State.serveAll (s : State) : List Request → Option State
  | [] => some s
  | r :: rs =>
    match s.serve r with
    | some p => p.2.serveAll rs
    | none => none

end Sys2Proof.Machine
end

