-- ==== Sys2Proof/Safety.lean ====
section
/-! DEFINITION. The terms claims are made in: the invariant of the machine, a good end of a run,
what an instruction leaves unchanged, and what it writes (10_state.md R41). -/

namespace Sys2Proof.Machine

/-! ### Invariant and runs -/

/-- Memory is in its canonical form and the call depth is within capacity (10_state.md R30). Every
step keeps it. -/
def State.Inv (s : State) : Prop := s.mem.wf = true ∧ s.sp ≤ stackCapacity

/-- A step that leaves the core running. A halt is a fault of the program, never a good end of a run
(60_exceptions.md R207, 93_implementation_defined.md U1). -/
def SafeStep (s : State) : Prop := ∃ t, step s = .next t ∧ t.status = .ready

/-- The program has finished: the core is ready inside the program area at a jump to its own address
(70_reset_and_hazards.md R249). DESIGN CHOICE of the spec (decision D20): log 16. -/
def State.Finished (s : State) : Prop :=
  s.status = .ready ∧ s.pcInRange = true ∧ s.fetch = formatA 0x1 (s.pc.setWidth 12)

/-! ### Frames -/

/-- The parts of the state other than general registers and memory. -/
inductive StatePart where
  | index | pc | delay | sound | depth | screen | status | draws | cycles | noKeyAt
  deriving DecidableEq, Repr

/-- The part has the same value in both states. -/
def StatePart.Same (s t : State) : StatePart → Prop
  | .index => t.i = s.i
  | .pc => t.pc = s.pc
  | .delay => t.dt = s.dt
  | .sound => t.st = s.st
  | .depth => t.sp = s.sp
  | .screen => t.fb = s.fb
  | .status => t.status = s.status
  | .draws => t.draws = s.draws
  | .cycles => t.cycles = s.cycles
  | .noKeyAt => t.noKeyAt = s.noKeyAt

/-- From `s` to `t` nothing changed but, possibly, the registers `regs`, the bytes of memory at the
addresses `stored`, and the parts `parts`. -/
def Frame (regs : List RegIx) (stored : List Nat) (parts : List StatePart) (s t : State) : Prop :=
  (∀ r, r ∉ regs → t.reg r = s.reg r) ∧
  (∀ a, a % memSize ∉ stored → t.readByte a = s.readByte a) ∧
  (∀ p, p ∉ parts → StatePart.Same s t p)

/-- The instruction completes: `exec` answers a next state, and the state is as `P` says. -/
def Answers (i : Instr) (s : State) (P : State → Prop) : Prop := ∃ t, exec i s = .next t ∧ P t

/-! ### What an instruction writes (10_state.md R41, the "writes" column) -/

/-- The general registers an instruction may write. -/
def regsWritten : Instr → List RegIx
  | .ldImm x _ | .addImm x _ | .ldReg x _ | .or x _ | .and x _ | .xor x _ | .rnd x _ => [x]
  | .ldVxDT x | .ldVxK x => [x]
  | .addReg x _ | .sub x _ | .subn x _ | .shr x _ | .shl x _ => [x, vf]
  | .drw _ _ _ => [vf]
  | .ldRegs x => (List.range (x.val + 1)).map regNo
  | .cls _ | .ret _ | .jp _ | .call _ | .seImm _ _ | .sneImm _ _ | .seReg _ _ | .sneReg _ _ => []
  | .ldI _ | .jpV0 _ | .skp _ | .sknp _ | .ldDTVx _ | .ldSTVx _ | .addI _ | .ldF _ | .ldB _ => []
  | .stRegs _ => []

/-- The addresses of memory an instruction may store to, with the functions its meaning uses. -/
def memWritten (s : State) : Instr → List Nat
  | .call _ => [stackAddr s.sp % memSize, (stackAddr s.sp + 1) % memSize]
  | .ldB _ => [s.dataAddr 0, s.dataAddr 1, s.dataAddr 2]
  | .stRegs x => (List.range (x.val + 1)).map s.dataAddr
  | .cls _ | .ret _ | .jp _ | .seImm _ _ | .sneImm _ _ | .seReg _ _ | .sneReg _ _ => []
  | .ldImm _ _ | .addImm _ _ | .ldReg _ _ | .or _ _ | .and _ _ | .xor _ _ | .rnd _ _ => []
  | .addReg _ _ | .sub _ _ | .subn _ _ | .shr _ _ | .shl _ _ | .drw _ _ _ => []
  | .ldI _ | .jpV0 _ | .skp _ | .sknp _ | .ldVxDT _ | .ldVxK _ | .ldDTVx _ | .ldSTVx _ => []
  | .addI _ | .ldF _ | .ldRegs _ => []

/-- The other parts of the state the execute phase of an instruction that completes may write. -/
def partsWritten : Instr → List StatePart
  | .cls _ | .drw _ _ _ => [.screen]
  | .ret _ | .call _ => [.depth, .pc]
  | .jp _ | .jpV0 _ | .seImm _ _ | .sneImm _ _ | .seReg _ _ | .sneReg _ _ => [.pc]
  | .skp _ | .sknp _ => [.pc, .draws]
  | .rnd _ _ | .ldVxK _ => [.draws]
  | .ldI _ | .addI _ | .ldF _ => [.index]
  | .ldDTVx _ => [.delay]
  | .ldSTVx _ => [.sound]
  | .ldImm _ _ | .addImm _ _ | .ldReg _ _ | .or _ _ | .and _ _ | .xor _ _ => []
  | .addReg _ _ | .sub _ _ | .subn _ _ | .shr _ _ | .shl _ _ => []
  | .ldVxDT _ | .ldB _ | .stRegs _ | .ldRegs _ => []

/-- The instruction writes `VF` as a flag (10_state.md R22). -/
def flagWriter : Instr → Bool
  | .addReg _ _ | .sub _ _ | .subn _ _ | .shr _ _ | .shl _ _ | .drw _ _ _ => true
  | .ldImm _ _ | .addImm _ _ | .ldReg _ _ | .or _ _ | .and _ _ | .xor _ _ | .rnd _ _ => false
  | .cls _ | .ret _ | .jp _ | .call _ | .seImm _ _ | .sneImm _ _ | .seReg _ _ | .sneReg _ _ => false
  | .ldI _ | .jpV0 _ | .skp _ | .sknp _ | .ldVxDT _ | .ldVxK _ | .ldDTVx _ | .ldSTVx _ => false
  | .addI _ | .ldF _ | .ldB _ | .stRegs _ | .ldRegs _ => false

/-! ### What a cycle on a ready core ends with -/

/-- The cycle requested now never returns: it would execute `FX0A`, and no key is delivered to its
request (46_keypad.md R190, log 4). -/
def State.Stalls (s : State) : Prop :=
  0x200 ≤ s.pc.toNat ∧ s.pc.toNat ≤ 0xE9F ∧ s.noKeyAt = some s.draws ∧
    ∃ x, decode [s.readByte s.pc.toNat, s.readByte (s.pc.toNat + 1)] = .ok (.ldVxK x, [])

/-- `STATUS` after the cycle, if it returns, by the tests in the order of 40_cycle.md R109. -/
def State.statusAfterCycle (s : State) : Status :=
  if s.pc.toNat < 0x200 ∨ s.pc.toNat > 0xE9F then .halted .pcOutOfBounds
  else match decode [s.readByte s.pc.toNat, s.readByte (s.pc.toNat + 1)] with
    | .error _ => .halted .invalidOpcode
    | .ok (.call _, _) => if s.sp = 48 then .halted .stackOverflow else .ready
    | .ok (.ret _, _) => if s.sp = 0 then .halted .stackUnderflow else .ready
    | .ok _ => .ready

/-- `pc` after a cycle that completed an instruction fetched from `p`, by the table of 40_cycle.md
R108; `s` is the state the cycle began in. -/
def State.pcAfter (s : State) (p : PcWord) : Instr → PcWord
  | .jp nnn | .call nnn => absTarget nnn
  | .jpV0 nnn => s.offsetTarget nnn
  | .ret _ => s.stackEntry (s.sp - 1)
  | .seImm x nn => if s.reg x = nn then p + 4 else p + 2
  | .sneImm x nn => if s.reg x = nn then p + 2 else p + 4
  | .seReg x y => if s.reg x = s.reg y then p + 4 else p + 2
  | .sneReg x y => if s.reg x = s.reg y then p + 2 else p + 4
  | .skp x => if s.keyDown (s.reg x) then p + 4 else p + 2
  | .sknp x => if s.keyDown (s.reg x) then p + 2 else p + 4
  | .cls _ | .ldImm _ _ | .addImm _ _ | .ldReg _ _ | .or _ _ | .and _ _ | .xor _ _ => p + 2
  | .addReg _ _ | .sub _ _ | .subn _ _ | .shr _ _ | .shl _ _ | .rnd _ _ | .drw _ _ _ => p + 2
  | .ldI _ | .ldVxDT _ | .ldVxK _ | .ldDTVx _ | .ldSTVx _ | .addI _ | .ldF _ | .ldB _ => p + 2
  | .stRegs _ | .ldRegs _ => p + 2

/-- One row of the sprite a draw names has a 1 bit on the pixel: row `r` of `n`, bit `7 - k`,
drawn at column `(x0 + k) mod 64` and row `(y0 + r) mod 32` (41_display.md R122, R123). -/
def State.SpriteCovers (s : State) (x0 y0 n : Nat) (px : Fin 64) (py : Fin 32) : Prop :=
  ∃ r < n, ∃ k < 8, (s.readByte (s.i.toNat + r)).getLsbD (7 - k) = true ∧
    px.val = (x0 + k) % 64 ∧ py.val = (y0 + r) % 32

end Sys2Proof.Machine
end

