-- ==== Sys2Proof/Certificates/Slice0/Obligations.lean ====
section
/-! DEFINITION. The statements for the provers. Each docstring names the rule or section of the spec
it formalises, and the log entry where it rests on a choice. A general register or part of the state
that a statement does not name is unchanged: its `Frame` says so. -/

section
open Sys2Proof Sys2Proof.Machine

/-! ### Encoding -/

/-- Decoding the bytes of any instruction gives it back, with every operand at every value, and
leaves the bytes after it (30_encoding.md section 4). That the bits an instruction does not use are
operands of it is the model's choice (log 22; for `CLS` and `RET` also the spec's decision D9,
log 10). -/
def Obligations.DecodeOfEncode : Prop :=
  ∀ (i : Instr) (rest : List Byte), decode (encodeBytes i ++ rest) = .ok (i, rest)

/-- Every opcode that decodes is the encoding of what it decodes to (30_encoding.md section 4). That
this holds of the bits an instruction does not use, bits 11:8 of `CLS` and `RET` and the `Y` of `SHR`
and `SHL`, is the model's choice: `Instr` keeps them (log 22), where an assembler writes them as 0; that
the decoder reads `CLS` and `RET` whatever bits 11:8 are is the spec's decision D9 (log 10). -/
def Obligations.EncodeOfDecode : Prop :=
  ∀ (w : Opcode) (i : Instr), decodeOpcode w = .ok i → encode i = w

/-- The decoder reads exactly the opcode map: the row of the instruction read covers the opcode, an
opcode a row covers is read as an instruction of that row (so no two rows overlap), and an opcode no
row covers is read as none (30_encoding.md section 4). -/
def Obligations.DecoderFollowsOpcodeMap : Prop :=
  ∀ w : Opcode,
    (∀ i, decodeOpcode w = .ok i → rowOf i ∈ opcodeMap ∧ (rowOf i).covers w = true) ∧
    (∀ r ∈ opcodeMap, r.covers w = true → ∃ i, decodeOpcode w = .ok i ∧ rowOf i = r) ∧
    (w.illegal = true ↔ ∃ e, decodeOpcode w = .error e)

/-- The illegal opcodes are exactly those 30_encoding.md section 3 lists, class by class. The
machine-language call `0NNN` is among them (the spec's decision D21, log 15). -/
def Obligations.IllegalOpcodesAreExact : Prop :=
  ∀ w : Opcode, (∃ e, decodeOpcode w = .error e) ↔
    (w.c = 0x0 ∧ w.nn ≠ 0xE0 ∧ w.nn ≠ 0xEE) ∨
    ((w.c = 0x5 ∨ w.c = 0x9) ∧ w.n ≠ 0) ∨
    (w.c = 0x8 ∧ 8 ≤ w.n.toNat ∧ w.n ≠ 0xE) ∨
    (w.c = 0xE ∧ w.nn ≠ 0x9E ∧ w.nn ≠ 0xA1) ∨
    (w.c = 0xF ∧ w.nn ∉ [0x07#8, 0x0A#8, 0x15#8, 0x18#8, 0x1E#8, 0x29#8, 0x33#8, 0x55#8, 0x65#8])

/-- A few words written out from the encodings of 30_encoding.md and the vectors of
95_test_vectors.md decode to what they stand for. -/
def Obligations.SampleWordsDecode : Prop :=
  decode [0x12, 0x34] = .ok (.jp 0x234, []) ∧
  decode [0x80, 0x14] = .ok (.addReg 0 1, []) ∧
  decode [0xD1, 0x25] = .ok (.drw 1 2 5, []) ∧
  decode [0xF2, 0x65] = .ok (.ldRegs 2, []) ∧
  decode [0x07, 0xEE] = .ok (.ret 7, []) ∧
  decode [0x53, 0x41] = .error (.illegalClass5 1) ∧
  decode [0x0F, 0xFF] = .error (.illegalClass0 0xFF)

/-! ### The cycle -/

/-- When the two bytes at `pc` decode to an instruction, a step of a ready core with `pc` in the
program area is that instruction's execute phase, on the state with `pc` advanced by 2. What the
model adds around it: the timers have counted the ticks the host asked for since the last cycle, a
free number of them, and the model's cycle counter has counted (40_cycle.md section 2; log 2). -/
def Obligations.StepRunsDecodedInstruction : Prop :=
  ∀ (s : State) (i : Instr), s.status = .ready → 0x200 ≤ s.pc.toNat → s.pc.toNat ≤ 0xE9F →
    decode [s.readByte s.pc.toNat, s.readByte (s.pc.toNat + 1)] = .ok (i, []) →
    step s = exec i { s with
      pc := s.pc + 2
      dt := timerAfter (Config.ticksBefore s.cycles) s.dt
      st := timerAfter (Config.ticksBefore s.cycles) s.st
      cycles := s.cycles + 1 }

/-- Every cycle of a ready core completes, unless it waits for a key that never comes, and its tests
decide `STATUS` in the order of 40_cycle.md section 3: `pc` range, legality of the opcode, then the
stack test of call and return. Each of the four fatal conditions is raised exactly then, and nothing
else raises one. It rests on the spec's decisions D2 (log 5) and D4 (log 6), and reads nothing of a
halted core but its cause (log 3); which wait never ends is the model's own field (log 4). -/
def Obligations.CycleHaltsExactlyWhen : Prop :=
  ∀ s : State, s.status = .ready →
    (s.Stalls → step s = .fault .noKey) ∧
    (¬ s.Stalls → ∃ t, step s = .next t ∧ t.status = s.statusAfterCycle)

/-- A cycle requested of a halted core executes nothing: it has no next state, and the host is told
the same cause (40_cycle.md section 1; the fault outcome is the model's reading of
60_exceptions.md section 2, log 3). -/
def Obligations.HaltedIsTerminal : Prop :=
  ∀ (s : State) (c : HaltCause), s.status = .halted c →
    step s = .fault (.halted c) ∧ s.serve .cycle = some (.status (.halted c), s)

/-- No instruction is refused, and every one has a next state, in any state and with any operands, but
for `FX0A` where no key is ever delivered to it: that one is stuck. It is the model's reading that a
fatal condition is a next state (log 3) and that the stuck cycle is a fault (log 4;
60_exceptions.md section 1, 46_keypad.md, FX0A). -/
def Obligations.EveryInstructionAnswers : Prop :=
  (∀ (x : RegIx) (s : State), s.noKeyAt = some s.draws → exec (.ldVxK x) s = .fault .noKey) ∧
  ∀ (i : Instr) (s : State), ((∃ x, i = .ldVxK x) → s.noKeyAt ≠ some s.draws) →
    ∃ t, exec i s = .next t

/-- A cycle that waits for a key no one delivers never returns to the host, and no later request is
served; every other request in every state returns (46_keypad.md, FX0A; which wait never ends is the
model's own field, log 4). -/
def Obligations.StalledCycleNeverReturns : Prop :=
  (∀ (s : State) (rs : List Request), s.status = .ready → s.Stalls →
    s.serve .cycle = none ∧ s.serveAll (.cycle :: rs) = none) ∧
  ∀ (s : State) (r : Request), (r = .cycle → s.status = .ready → ¬ s.Stalls) →
    ∃ p, s.serve r = some p

/-- `pc` after a completed cycle, by the table of 40_cycle.md section 3, for every instruction.
It rests on the spec's decisions D1 (log 5) and D5 (log 6), and the key answers are free (log 1). -/
def Obligations.PcAfterCompletedCycle : Prop :=
  ∀ (s t : State) (i : Instr), s.status = .ready → 0x200 ≤ s.pc.toNat → s.pc.toNat ≤ 0xE9F →
    decode [s.readByte s.pc.toNat, s.readByte (s.pc.toNat + 1)] = .ok (i, []) →
    step s = .next t → t.status = .ready → t.pc = s.pcAfter s.pc i

/-! ### Rules over all instructions -/

/-- No instruction that completes writes more than the write column of 10_state.md section 12 lists
for it: every other register, every other byte of memory and every other part of the state is
unchanged. The stored addresses rest on the spec's decisions D5 (log 6) and D19 (log 17), the counter
of port requests is the model's (log 1), and the state a halt leaves is not read (log 3). -/
def Obligations.EveryInstructionFrame : Prop :=
  ∀ (i : Instr) (s t : State), exec i s = .next t → t.status = .ready →
    Frame (regsWritten i) (memWritten s i) (partsWritten i) s t

/-- An instruction that writes `VF` as a flag leaves 0 or 1 in it, whenever `VF` is not its
destination `X` (10_state.md section 2; with `X = 0xF` the order of writes decides, log 11). -/
def Obligations.FlagIsZeroOrOne : Prop :=
  ∀ (i : Instr) (s t : State), flagWriter i = true → regsWritten i ≠ [vf, vf] →
    exec i s = .next t → t.reg vf = 0 ∨ t.reg vf = 1

/-- No instruction reads the sound timer: from two states that differ in it alone an instruction
ends with the same `STATUS`, and, if it completes, in states that differ in it alone
(10_state.md section 5). The state a halt leaves is not read (log 3). -/
def Obligations.SoundTimerIsNeverRead : Prop :=
  ∀ (i : Instr) (s t : State) (b : Byte), exec i s = .next t →
    ∃ u, exec i (s.setSound b) = .next u ∧ u.status = t.status ∧
      (t.status = .ready → u.setSound 0 = t.setSound 0)

/-- Every step keeps memory canonical and the call depth within capacity: a step from any state that
meets the invariant ends in one that does (10_state.md section 6; the canonical form is the model's,
log 19, and the capacity the spec's decision D4, log 6). The range of `SP` and the form of memory
hold in a halted state too. -/
def Obligations.StepKeepsInv : Prop :=
  ∀ s t : State, s.Inv → step s = .next t → t.Inv

/-- The reset state meets the invariant. -/
def Obligations.ResetMeetsInv : Prop := State.reset.Inv

/-- Whatever the host requests, in any order, the invariant holds once all of it has returned
(60_exceptions.md section 6). -/
def Obligations.RequestsKeepInv : Prop :=
  ∀ (rs : List Request) (s t : State), s.Inv → s.serveAll rs = some t → t.Inv

/-! ### Display -/

/-- `00E0`, with any bits 11:8, unsets every pixel and changes nothing else (41_display.md, 00E0;
that bits 11:8 are ignored is the spec's decision D9, log 10). -/
def Obligations.ClsClearsEveryPixel : Prop :=
  (∀ u : Nibble, decodeOpcode (formatI 0x0 u 0xE0) = .ok (.cls u)) ∧
  ∀ (u : Nibble) (s : State), Answers (.cls u) s fun t =>
    (∀ x y, t.pixel x y = false) ∧ Frame [] [] [.screen] s t

/-- `DXYN` inverts exactly the pixels under a 1 bit of the sprite, leaves the others, and ends with
`VF` = 1 if one of those was set and 0 otherwise; nothing else changes (41_display.md, DXYN). The
coordinates are the values before the instruction, and the wrap at the edges is the spec's decision
D11 (log 12). -/
def Obligations.DrwInvertsCoveredPixels : Prop :=
  (∀ x y n : Nibble, decodeOpcode (formatR 0xD x y n) =
    .ok (.drw (regOfNibble x) (regOfNibble y) n)) ∧
  ∀ (x y : RegIx) (n : Nibble) (s : State), Answers (.drw x y n) s fun t =>
    (∀ px py, s.SpriteCovers (s.reg x).toNat (s.reg y).toNat n.toNat px py →
      t.pixel px py = !s.pixel px py) ∧
    (∀ px py, ¬ s.SpriteCovers (s.reg x).toNat (s.reg y).toNat n.toNat px py →
      t.pixel px py = s.pixel px py) ∧
    ((∃ px py, s.SpriteCovers (s.reg x).toNat (s.reg y).toNat n.toNat px py ∧
      s.pixel px py = true) → t.reg vf = 1) ∧
    ((∀ px py, s.SpriteCovers (s.reg x).toNat (s.reg y).toNat n.toNat px py →
      s.pixel px py = false) → t.reg vf = 0) ∧
    Frame [vf] [] [.screen] s t

/-- Drawing the same sprite twice at the same position restores the framebuffer, and the second draw
collides if the first set a pixel. `VF` must not be a coordinate, since the first draw writes it
(41_display.md, DXYN, corner case (g); log 12). -/
def Obligations.DrawingTwiceRestores : Prop :=
  ∀ (x y : RegIx) (n : Nibble) (s : State), x ≠ vf → y ≠ vf →
    ∃ t u, exec (.drw x y n) s = .next t ∧ exec (.drw x y n) t = .next u ∧ u.fb = s.fb ∧
      ((∃ px py, s.pixel px py = false ∧ t.pixel px py = true) → u.reg vf = 1)

/-! ### Control transfer -/

/-- `00EE` pops: `pc` becomes the two bytes of the newest stack entry, all 16 bits, and the depth
drops by one; memory keeps the bytes. With an empty stack it raises `StackUnderflow`
(42_control_flow.md, 00EE; the stack's layout is the spec's decision D5, log 6, and bits 11:8 are
ignored by D9, log 10). -/
def Obligations.RetPops : Prop :=
  (∀ u : Nibble, decodeOpcode (formatI 0x0 u 0xEE) = .ok (.ret u)) ∧
  (∀ (u : Nibble) (s : State), s.sp ≠ 0 → Answers (.ret u) s fun t =>
    highByte t.pc = s.readByte (0xEA0 + 2 * (s.sp - 1)) ∧
    lowByte t.pc = s.readByte (0xEA0 + 2 * (s.sp - 1) + 1) ∧
    t.sp = s.sp - 1 ∧ Frame [] [] [.pc, .depth] s t) ∧
  (∀ (u : Nibble) (s : State), s.sp = 0 → Answers (.ret u) s fun t =>
    t.status = .halted .stackUnderflow)

/-- `1NNN`: `pc` becomes `NNN` and nothing but `pc` changes (42_control_flow.md R132). -/
def Obligations.JpSetsPc : Prop :=
  (∀ nnn : Addr, decodeOpcode (formatA 0x1 nnn) = .ok (.jp nnn)) ∧
  ∀ (nnn : Addr) (s : State), Answers (.jp nnn) s fun t =>
    t.pc.toNat = nnn.toNat ∧ Frame [] [] [.pc] s t

/-- `2NNN` pushes the advanced `pc`, high byte first, counts and jumps; only the two stack bytes are
stored. With 48 entries it raises `StackOverflow` (42_control_flow.md, 2NNN; the layout and the
capacity are the spec's decisions D4 and D5, log 6). -/
def Obligations.CallPushesAndJumps : Prop :=
  (∀ nnn : Addr, decodeOpcode (formatA 0x2 nnn) = .ok (.call nnn)) ∧
  (∀ (nnn : Addr) (s : State), s.sp < 48 → Answers (.call nnn) s fun t =>
    t.readByte (0xEA0 + 2 * s.sp) = highByte s.pc ∧
    t.readByte (0xEA0 + 2 * s.sp + 1) = lowByte s.pc ∧
    t.sp = s.sp + 1 ∧ t.pc.toNat = nnn.toNat ∧
    Frame [] [stackAddr s.sp, stackAddr s.sp + 1] [.pc, .depth] s t) ∧
  (∀ (nnn : Addr) (s : State), s.sp = 48 → Answers (.call nnn) s fun t =>
    t.status = .halted .stackOverflow)

/-- Call and return are symmetric at every depth below capacity: from any later state with the
depth of just after the call and the stack bytes of that entry not overwritten, a return comes back
to the address the call pushed, at the depth before the call (42_control_flow.md, call and return
together; log 6). -/
def Obligations.CallThenReturnComesBack : Prop :=
  ∀ (nnn : Addr) (k : Nibble) (s u : State), s.sp < 48 →
    ∃ t, exec (.call nnn) s = .next t ∧
      (u.sp = t.sp → u.readByte (stackAddr s.sp) = t.readByte (stackAddr s.sp) →
        u.readByte (stackAddr s.sp + 1) = t.readByte (stackAddr s.sp + 1) →
        ∃ w, exec (.ret k) u = .next w ∧ w.pc = s.pc ∧ w.sp = s.sp)

/-- `BNNN`: `pc` becomes the whole sum `V0 + NNN`, up to `0x10FE`, and nothing but `pc` changes
(42_control_flow.md, BNNN; that the sum is not masked is the spec's decision D1, log 5). -/
def Obligations.JpV0SetsPc : Prop :=
  (∀ nnn : Addr, decodeOpcode (formatA 0xB nnn) = .ok (.jpV0 nnn)) ∧
  ∀ (nnn : Addr) (s : State), Answers (.jpV0 nnn) s fun t =>
    t.pc.toNat = (s.reg v0).toNat + nnn.toNat ∧ Frame [] [] [.pc] s t

/-! ### Skips -/

/-- `3XNN` and `4XNN` advance `pc` by one more instruction if `V[X] = NN`, if `V[X] ≠ NN`, and
change nothing else (43_skip.md R141, R142). -/
def Obligations.SkipOnImmediate : Prop :=
  (∀ (x : Nibble) (nn : Byte), decodeOpcode (formatI 0x3 x nn) = .ok (.seImm (regOfNibble x) nn) ∧
    decodeOpcode (formatI 0x4 x nn) = .ok (.sneImm (regOfNibble x) nn)) ∧
  ∀ (x : RegIx) (nn : Byte) (s : State),
    (Answers (.seImm x nn) s fun t =>
      t.pc = (if (s.reg x).toNat = nn.toNat then s.pc + 2 else s.pc) ∧ Frame [] [] [.pc] s t) ∧
    (Answers (.sneImm x nn) s fun t =>
      t.pc = (if (s.reg x).toNat = nn.toNat then s.pc else s.pc + 2) ∧ Frame [] [] [.pc] s t)

/-- `5XY0` and `9XY0` advance `pc` by one more instruction if `V[X] = V[Y]`, if `V[X] ≠ V[Y]`, and
change nothing else; with any other low nibble the opcode is illegal (43_skip.md R143, R144). -/
def Obligations.SkipOnRegister : Prop :=
  (∀ x y n : Nibble,
    (decodeOpcode (formatR 0x5 x y n) = if n = 0 then .ok (.seReg (regOfNibble x) (regOfNibble y))
      else .error (.illegalClass5 n)) ∧
    (decodeOpcode (formatR 0x9 x y n) = if n = 0 then .ok (.sneReg (regOfNibble x) (regOfNibble y))
      else .error (.illegalClass9 n))) ∧
  ∀ (x y : RegIx) (s : State),
    (Answers (.seReg x y) s fun t =>
      t.pc = (if (s.reg x).toNat = (s.reg y).toNat then s.pc + 2 else s.pc) ∧
      Frame [] [] [.pc] s t) ∧
    (Answers (.sneReg x y) s fun t =>
      t.pc = (if (s.reg x).toNat = (s.reg y).toNat then s.pc else s.pc + 2) ∧
      Frame [] [] [.pc] s t)

/-! ### Loads, arithmetic and logic -/

/-- `6XNN`: `V[X]` becomes `NN` and nothing else changes (44_load_alu.md R151). -/
def Obligations.LdImmLoads : Prop :=
  (∀ (x : Nibble) (nn : Byte), decodeOpcode (formatI 0x6 x nn) = .ok (.ldImm (regOfNibble x) nn)) ∧
  ∀ (x : RegIx) (nn : Byte) (s : State), Answers (.ldImm x nn) s fun t =>
    t.reg x = nn ∧ Frame [x] [] [] s t

/-- `7XNN`: `V[X]` becomes the sum modulo 256; the carry is discarded, `VF` is no flag here, and
nothing else changes (44_load_alu.md R152). -/
def Obligations.AddImmWraps : Prop :=
  (∀ (x : Nibble) (nn : Byte), decodeOpcode (formatI 0x7 x nn) =
    .ok (.addImm (regOfNibble x) nn)) ∧
  ∀ (x : RegIx) (nn : Byte) (s : State), Answers (.addImm x nn) s fun t =>
    (t.reg x).toNat = ((s.reg x).toNat + nn.toNat) % 256 ∧ Frame [x] [] [] s t

/-- `8XY0`: `V[X]` becomes `V[Y]` and nothing else changes (44_load_alu.md R153). -/
def Obligations.LdRegMoves : Prop :=
  (∀ x y : Nibble, decodeOpcode (formatR 0x8 x y 0x0) =
    .ok (.ldReg (regOfNibble x) (regOfNibble y))) ∧
  ∀ (x y : RegIx) (s : State), Answers (.ldReg x y) s fun t =>
    t.reg x = s.reg y ∧ Frame [x] [] [] s t

/-- `8XY1`, `8XY2`, `8XY3`: every bit of `V[X]` becomes the or, the and, the exclusive or of the bits
of `V[X]` and `V[Y]`; `VF` is not written unless it is `X`, and nothing else changes
(44_load_alu.md R154, R155, R156). -/
def Obligations.LogicIsBitwise : Prop :=
  (∀ x y : Nibble,
    decodeOpcode (formatR 0x8 x y 0x1) = .ok (.or (regOfNibble x) (regOfNibble y)) ∧
    decodeOpcode (formatR 0x8 x y 0x2) = .ok (.and (regOfNibble x) (regOfNibble y)) ∧
    decodeOpcode (formatR 0x8 x y 0x3) = .ok (.xor (regOfNibble x) (regOfNibble y))) ∧
  ∀ (x y : RegIx) (s : State),
    (Answers (.or x y) s fun t => Frame [x] [] [] s t ∧ ∀ k < 8,
      (t.reg x).getLsbD k = ((s.reg x).getLsbD k || (s.reg y).getLsbD k)) ∧
    (Answers (.and x y) s fun t => Frame [x] [] [] s t ∧ ∀ k < 8,
      (t.reg x).getLsbD k = ((s.reg x).getLsbD k && (s.reg y).getLsbD k)) ∧
    (Answers (.xor x y) s fun t => Frame [x] [] [] s t ∧ ∀ k < 8,
      (t.reg x).getLsbD k = ((s.reg x).getLsbD k ^^ (s.reg y).getLsbD k))

/-- `8XY4`: `V[X]` becomes the sum modulo 256, then `VF` becomes 1 if the sum exceeds 255 and 0
otherwise, of the values before the instruction; with `X = 0xF` the carry remains (44_load_alu.md,
8XY4; reads before writes and the order with `X = 0xF` are the spec's decision D10, log 11). -/
def Obligations.AddRegSumAndCarry : Prop :=
  (∀ x y : Nibble, decodeOpcode (formatR 0x8 x y 0x4) =
    .ok (.addReg (regOfNibble x) (regOfNibble y))) ∧
  ∀ (x y : RegIx) (s : State), Answers (.addReg x y) s fun t =>
    (t.reg vf).toNat = (if (s.reg x).toNat + (s.reg y).toNat > 255 then 1 else 0) ∧
    (x ≠ vf → (t.reg x).toNat = ((s.reg x).toNat + (s.reg y).toNat) % 256) ∧
    Frame [x, vf] [] [] s t

/-- `8XY5` and `8XY7`: `VF` becomes 1 when there is no borrow and 0 otherwise, then `V[X]` becomes
`V[X] - V[Y]`, or `V[Y] - V[X]`, modulo 256, of the values before the instruction; with `X = 0xF` the
difference remains (44_load_alu.md, 8XY5 and 8XY7; decision D10, log 11). -/
def Obligations.SubFlagAndDifference : Prop :=
  (∀ x y : Nibble,
    decodeOpcode (formatR 0x8 x y 0x5) = .ok (.sub (regOfNibble x) (regOfNibble y)) ∧
    decodeOpcode (formatR 0x8 x y 0x7) = .ok (.subn (regOfNibble x) (regOfNibble y))) ∧
  ∀ (x y : RegIx) (s : State),
    (Answers (.sub x y) s fun t =>
      (t.reg x).toNat = ((s.reg x).toNat + 256 - (s.reg y).toNat) % 256 ∧
      (x ≠ vf → (t.reg vf).toNat = if (s.reg x).toNat ≥ (s.reg y).toNat then 1 else 0) ∧
      Frame [x, vf] [] [] s t) ∧
    (Answers (.subn x y) s fun t =>
      (t.reg x).toNat = ((s.reg y).toNat + 256 - (s.reg x).toNat) % 256 ∧
      (x ≠ vf → (t.reg vf).toNat = if (s.reg y).toNat ≥ (s.reg x).toNat then 1 else 0) ∧
      Frame [x, vf] [] [] s t)

/-- `8XY6` and `8XYE`, for every `Y`: `VF` becomes the bit shifted out, then `V[X]` becomes its old
value shifted by one, filled with 0; with `X = 0xF` the shifted value remains (44_load_alu.md, 8XY6
and 8XYE; decision D10, log 11). -/
def Obligations.ShiftFlagAndResult : Prop :=
  (∀ x y : Nibble,
    decodeOpcode (formatR 0x8 x y 0x6) = .ok (.shr (regOfNibble x) (regOfNibble y)) ∧
    decodeOpcode (formatR 0x8 x y 0xE) = .ok (.shl (regOfNibble x) (regOfNibble y))) ∧
  ∀ (x y : RegIx) (s : State),
    (Answers (.shr x y) s fun t =>
      (t.reg x).toNat = (s.reg x).toNat / 2 ∧
      (x ≠ vf → (t.reg vf).toNat = (s.reg x).toNat % 2) ∧ Frame [x, vf] [] [] s t) ∧
    (Answers (.shl x y) s fun t =>
      (t.reg x).toNat = (2 * (s.reg x).toNat) % 256 ∧
      (x ≠ vf → (t.reg vf).toNat = (s.reg x).toNat / 128) ∧ Frame [x, vf] [] [] s t)

/-- `CXNN`: one byte is drawn from the random-byte port, which may be any, and `V[X]` becomes its and
with `NN`, so no bit outside `NN` is set; nothing else changes (44_load_alu.md, CXNN; the port's
answer is a free value, log 1). -/
def Obligations.RndMasksFreeByte : Prop :=
  (∀ (x : Nibble) (nn : Byte), decodeOpcode (formatI 0xC x nn) = .ok (.rnd (regOfNibble x) nn)) ∧
  ∀ (x : RegIx) (nn : Byte) (s : State), Answers (.rnd x nn) s fun t =>
    t.reg x = Config.randomByte s.draws &&& nn ∧ t.reg x &&& ~~~nn = 0 ∧
    t.draws = s.draws + 1 ∧ Frame [x] [] [.draws] s t

/-! ### Index register and memory -/

/-- `ANNN`: `I` becomes `NNN` and nothing else changes (45_index_memory.md R171). -/
def Obligations.LdISetsIndex : Prop :=
  (∀ nnn : Addr, decodeOpcode (formatA 0xA nnn) = .ok (.ldI nnn)) ∧
  ∀ (nnn : Addr) (s : State), Answers (.ldI nnn) s fun t => t.i = nnn ∧ Frame [] [] [.index] s t

/-- `FX1E`: `I` becomes `(I + V[X]) mod 4096`; `VF` is not written, and nothing else changes
(45_index_memory.md R172). -/
def Obligations.AddIWraps : Prop :=
  (∀ x : Nibble, decodeOpcode (formatI 0xF x 0x1E) = .ok (.addI (regOfNibble x))) ∧
  ∀ (x : RegIx) (s : State), Answers (.addI x) s fun t =>
    t.i.toNat = (s.i.toNat + (s.reg x).toNat) % 4096 ∧ Frame [] [] [.index] s t

/-- `FX29`: `I` becomes five times the low nibble of `V[X]`, and nothing else changes
(45_index_memory.md, FX29; the glyph addresses and the low nibble are the spec's decisions D7 and D8,
log 8 and log 9). -/
def Obligations.LdFPointsAtGlyph : Prop :=
  (∀ x : Nibble, decodeOpcode (formatI 0xF x 0x29) = .ok (.ldF (regOfNibble x))) ∧
  ∀ (x : RegIx) (s : State), Answers (.ldF x) s fun t =>
    t.i.toNat = 5 * ((s.reg x).toNat % 16) ∧ Frame [] [] [.index] s t

/-- `FX33`: the hundreds, tens and ones digits of `V[X]` are stored at `I`, `I + 1`, `I + 2`, each
address modulo 4096; `I`, all registers and every other byte are unchanged
(45_index_memory.md R174). -/
def Obligations.LdBStoresDigits : Prop :=
  (∀ x : Nibble, decodeOpcode (formatI 0xF x 0x33) = .ok (.ldB (regOfNibble x))) ∧
  ∀ (x : RegIx) (s : State), Answers (.ldB x) s fun t =>
    (t.readByte ((s.i.toNat + 0) % 4096)).toNat = (s.reg x).toNat / 100 ∧
    (t.readByte ((s.i.toNat + 1) % 4096)).toNat = (s.reg x).toNat / 10 % 10 ∧
    (t.readByte ((s.i.toNat + 2) % 4096)).toNat = (s.reg x).toNat % 10 ∧
    Frame [] [s.dataAddr 0, s.dataAddr 1, s.dataAddr 2] [] s t

/-- `FX55`: `V[0]` to `V[X]` are stored at `I` to `I + X`, each address modulo 4096; `I`, all
registers and every other byte are unchanged (45_index_memory.md R175). -/
def Obligations.StRegsStoresRange : Prop :=
  (∀ x : Nibble, decodeOpcode (formatI 0xF x 0x55) = .ok (.stRegs (regOfNibble x))) ∧
  ∀ (x : RegIx) (s : State), Answers (.stRegs x) s fun t =>
    (∀ r : RegIx, r.val ≤ x.val → t.readByte ((s.i.toNat + r.val) % 4096) = s.reg r) ∧
    Frame [] ((List.range (x.val + 1)).map s.dataAddr) [] s t

/-- `FX65`: `V[0]` to `V[X]` are loaded from `I` to `I + X`, each address modulo 4096; `I`, memory
and the registers above `X` are unchanged (45_index_memory.md R176). -/
def Obligations.LdRegsLoadsRange : Prop :=
  (∀ x : Nibble, decodeOpcode (formatI 0xF x 0x65) = .ok (.ldRegs (regOfNibble x))) ∧
  ∀ (x : RegIx) (s : State), Answers (.ldRegs x) s fun t =>
    (∀ r : RegIx, r.val ≤ x.val → t.reg r = s.readByte ((s.i.toNat + r.val) % 4096)) ∧
    (∀ r : RegIx, x.val < r.val → t.reg r = s.reg r) ∧
    Frame ((List.range (x.val + 1)).map regNo) [] [] s t

/-- A block load after a block store, from any state with the memory and the `I` the store left,
brings the stored registers back, wherever the block lies and however it wraps
(45_index_memory.md, FX55 and FX65). -/
def Obligations.StoreThenLoadRestores : Prop :=
  ∀ (x : RegIx) (s u : State), ∃ t, exec (.stRegs x) s = .next t ∧
    (u.mem = t.mem → u.i = t.i →
      ∃ w, exec (.ldRegs x) u = .next w ∧ ∀ r : RegIx, r.val ≤ x.val → w.reg r = s.reg r)

/-- A store is seen by the very next fetch: after `FX55` with `I` at `pc` and `X` at least 1, the
opcode fetched at `pc` is `V0` over `V1` (20_memory.md section 7). -/
def Obligations.StoreIsSeenByFetch : Prop :=
  ∀ (x : RegIx) (s : State), s.i.toNat = s.pc.toNat → x ≠ 0 →
    ∃ t, exec (.stRegs x) s = .next t ∧ highByte t.fetch = s.reg 0 ∧ lowByte t.fetch = s.reg 1

/-- Every address is masked to 12 bits: addresses equal modulo 4096 name the same byte, for reading
and for writing, and a byte read is the last byte written there (20_memory.md sections 1 and 4; wrap
is the spec's decision D19, log 17). -/
def Obligations.AddressesAreMasked : Prop :=
  ∀ (s : State) (a x : Nat) (b : Byte),
    s.readByte (a + 4096) = s.readByte a ∧ s.writeByte (a + 4096) b = s.writeByte a b ∧
    (s.writeByte a b).readByte x = if x % 4096 = a % 4096 then b else s.readByte x

/-! ### Keypad -/

/-- `EX9E` and `EXA1`: the key-state port is asked once about all 8 bits of `V[X]`; the one advances
`pc` by one more instruction if the key is down, the other if it is up, so for the same answer
exactly one of them skips; nothing else changes (46_keypad.md, EX9E and EXA1; the answer is a free
value, log 1). -/
def Obligations.KeySkipsAreComplements : Prop :=
  (∀ x : Nibble, decodeOpcode (formatI 0xE x 0x9E) = .ok (.skp (regOfNibble x)) ∧
    decodeOpcode (formatI 0xE x 0xA1) = .ok (.sknp (regOfNibble x))) ∧
  ∀ (x : RegIx) (s : State),
    (Answers (.skp x) s fun t =>
      t.pc = (if Config.keyDown s.draws (s.reg x) = true then s.pc + 2 else s.pc) ∧
      t.draws = s.draws + 1 ∧ Frame [] [] [.pc, .draws] s t) ∧
    (Answers (.sknp x) s fun t =>
      t.pc = (if Config.keyDown s.draws (s.reg x) = true then s.pc else s.pc + 2) ∧
      t.draws = s.draws + 1 ∧ Frame [] [] [.pc, .draws] s t)

/-- `FX0A`: where a key is delivered, `V[X]` becomes that key, all 8 bits of it, in one atomic step;
the timers, `pc` and everything else keep their values through the wait. Where none is ever delivered,
the instruction never completes: no next state (46_keypad.md, FX0A; the key is a free value, log 1, and
whether it comes is the model's own field, log 4). -/
def Obligations.WaitKeyStoresDeliveredKey : Prop :=
  (∀ x : Nibble, decodeOpcode (formatI 0xF x 0x0A) = .ok (.ldVxK (regOfNibble x))) ∧
  (∀ (x : RegIx) (s : State), s.noKeyAt ≠ some s.draws → Answers (.ldVxK x) s fun t =>
    t.reg x = Config.waitKey s.draws ∧ t.draws = s.draws + 1 ∧ Frame [x] [] [.draws] s t) ∧
  ∀ (x : RegIx) (s : State), s.noKeyAt = some s.draws → exec (.ldVxK x) s = .fault .noKey

/-! ### Timers -/

/-- `FX07`: `V[X]` becomes `DT`, which is not changed by being read; nothing else changes
(47_timers.md R194). -/
def Obligations.LdVxDTReadsDelay : Prop :=
  (∀ x : Nibble, decodeOpcode (formatI 0xF x 0x07) = .ok (.ldVxDT (regOfNibble x))) ∧
  ∀ (x : RegIx) (s : State), Answers (.ldVxDT x) s fun t => t.reg x = s.dt ∧ Frame [x] [] [] s t

/-- `FX15` and `FX18`: `DT`, or `ST`, becomes `V[X]`, and nothing else changes
(47_timers.md R195, R196). -/
def Obligations.TimersAreSet : Prop :=
  (∀ x : Nibble, decodeOpcode (formatI 0xF x 0x15) = .ok (.ldDTVx (regOfNibble x)) ∧
    decodeOpcode (formatI 0xF x 0x18) = .ok (.ldSTVx (regOfNibble x))) ∧
  ∀ (x : RegIx) (s : State),
    (Answers (.ldDTVx x) s fun t => t.dt = s.reg x ∧ Frame [] [] [.delay] s t) ∧
    (Answers (.ldSTVx x) s fun t => t.st = s.reg x ∧ Frame [] [] [.sound] s t)

/-- A tick takes 1 from each timer that is above 0, leaves one at 0, and changes nothing else; on a
halted core it changes nothing (60_exceptions.md section 5; the halted case is the spec's decision
D18, log 2). -/
def Obligations.TimerTickCountsDown : Prop :=
  (∀ s : State, s.status = .ready →
    s.timerTick.dt.toNat = s.dt.toNat - 1 ∧ s.timerTick.st.toNat = s.st.toNat - 1 ∧
    Frame [] [] [.delay, .sound] s s.timerTick) ∧
  ∀ (s : State) (c : HaltCause), s.status = .halted c → s.timerTick = s

/-- The ticks that precede a step are that many single ticks, one after another: `n + 1` ticks are
one tick and then `n`, and none is none (60_exceptions.md section 5; log 2). -/
def Obligations.TicksAreSingleTicks : Prop :=
  ∀ (s : State) (n : Nat), s.ticks 0 = s ∧ s.ticks (n + 1) = s.timerTick.ticks n

/-! ### Reset, load and read-out -/

/-- After a reset of any state, every register, timer and pixel is zero, the stack is empty, `pc` is
`0x200`, memory is the font and then zeros, and the core is ready (10_state.md section 10; the values
are the spec's decision D6, log 7, and the font bytes D7, log 8). -/
def Obligations.ResetValues : Prop :=
  ∀ s : State, (∀ r, s.hostReset.reg r = 0) ∧ s.hostReset.i = 0 ∧ s.hostReset.pc = 0x200 ∧
    s.hostReset.dt = 0 ∧ s.hostReset.st = 0 ∧ s.hostReset.sp = 0 ∧ s.hostReset.status = .ready ∧
    (∀ x y, s.hostReset.pixel x y = false) ∧
    (∀ a, s.hostReset.readByte a = if h : a % 4096 < font.length then font[a % 4096] else 0) ∧
    (s.draws = 0 → s.cycles = 0 → s.noKeyAt = none → s.hostReset = State.reset)

/-- A ROM of at most 3232 bytes is copied to `0x200` and up and `pc` becomes `0x200`; every other
byte and every other part, `STATUS` among them, is unchanged. A longer one is refused
(70_reset_and_hazards.md section 2; capacity and extent are the spec's decision D15, log 14). -/
def Obligations.LoadCopiesOrRefuses : Prop :=
  ∀ (s : State) (rom : List Byte),
    (rom.length ≤ 3232 → ∃ t, s.load rom = some t ∧ t.pc = 0x200 ∧
      (∀ k, (h : k < rom.length) → t.readByte (0x200 + k) = rom[k]) ∧
      Frame [] ((List.range rom.length).map (0x200 + ·)) [.pc] s t) ∧
    (3232 < rom.length → s.load rom = none ∧ s.serve (.load rom) = some (.romTooLarge, s))

/-- The framebuffer read-out is 2048 pixels, pixel `(x, y)` at `64*y + x`, and reading it changes
nothing (60_exceptions.md section 7). -/
def Obligations.SnapshotIsRowMajor : Prop :=
  ∀ s : State, s.snapshot.length = 2048 ∧
    (∀ (x : Fin 64) (y : Fin 32), s.snapshot[64 * y.val + x.val]? = some (s.pixel x y)) ∧
    s.serve .readFramebuffer = some (.frame s.snapshot, s)

/-- A finished program stays finished: a step leaves all state as it is but for the timers, which
only count down, and the model's cycle counter (70_reset_and_hazards.md section 3; the shape is the
spec's decision D20, log 16). -/
def Obligations.FinishedStaysFinished : Prop :=
  ∀ s : State, s.Finished → ∃ t, step s = .next t ∧ t.Finished ∧
    Frame [] [] [.delay, .sound, .cycles] s t ∧
    t.dt.toNat ≤ s.dt.toNat ∧ t.st.toNat ≤ s.st.toNat

/-- A core that is reset and given no program halts with `InvalidOpcode` on its first cycle: the
program area holds `0x0000` (70_reset_and_hazards.md section 3; decision D21, log 15). -/
def Obligations.EmptyCoreHalts : Prop :=
  ∃ t, step State.reset = .next t ∧ t.status = .halted .invalidOpcode

end
end

