-- ==== Sys2Proof/Laws/State.lean ====
section
/-! SUPPORT. One lemma per field per update of the state, each true by rfl, so that no later proof
unfolds a record update; and the reads a field feeds. -/

namespace Sys2Proof.Machine

variable (s : State)

/-! ### setReg -/

@[simp] theorem State.setReg_v (r : RegIx) (b : Byte) : (s.setReg r b).v = s.v.set r.val b := rfl
@[simp] theorem State.setReg_i (r : RegIx) (b : Byte) : (s.setReg r b).i = s.i := rfl
@[simp] theorem State.setReg_pc (r : RegIx) (b : Byte) : (s.setReg r b).pc = s.pc := rfl
@[simp] theorem State.setReg_dt (r : RegIx) (b : Byte) : (s.setReg r b).dt = s.dt := rfl
@[simp] theorem State.setReg_st (r : RegIx) (b : Byte) : (s.setReg r b).st = s.st := rfl
@[simp] theorem State.setReg_sp (r : RegIx) (b : Byte) : (s.setReg r b).sp = s.sp := rfl
@[simp] theorem State.setReg_mem (r : RegIx) (b : Byte) : (s.setReg r b).mem = s.mem := rfl
@[simp] theorem State.setReg_fb (r : RegIx) (b : Byte) : (s.setReg r b).fb = s.fb := rfl
@[simp] theorem State.setReg_status (r : RegIx) (b : Byte) : (s.setReg r b).status = s.status := rfl
@[simp] theorem State.setReg_draws (r : RegIx) (b : Byte) : (s.setReg r b).draws = s.draws := rfl
@[simp] theorem State.setReg_cycles (r : RegIx) (b : Byte) : (s.setReg r b).cycles = s.cycles := rfl
@[simp] theorem State.setReg_noKeyAt (r : RegIx) (b : Byte) : (s.setReg r b).noKeyAt = s.noKeyAt := rfl
@[simp] theorem State.readByte_setReg (r : RegIx) (b : Byte) (x : Nat) : (s.setReg r b).readByte x = s.readByte x := rfl
@[simp] theorem State.pixel_setReg (r : RegIx) (b : Byte) (x : Fin 64) (y : Fin 32) : (s.setReg r b).pixel x y = s.pixel x y := rfl
@[simp] theorem State.dataAddr_setReg (r : RegIx) (b : Byte) (k : Nat) : (s.setReg r b).dataAddr k = s.dataAddr k := rfl

/-! ### writeByte -/

@[simp] theorem State.writeByte_v (a : Nat) (b : Byte) : (s.writeByte a b).v = s.v := rfl
@[simp] theorem State.writeByte_i (a : Nat) (b : Byte) : (s.writeByte a b).i = s.i := rfl
@[simp] theorem State.writeByte_pc (a : Nat) (b : Byte) : (s.writeByte a b).pc = s.pc := rfl
@[simp] theorem State.writeByte_dt (a : Nat) (b : Byte) : (s.writeByte a b).dt = s.dt := rfl
@[simp] theorem State.writeByte_st (a : Nat) (b : Byte) : (s.writeByte a b).st = s.st := rfl
@[simp] theorem State.writeByte_sp (a : Nat) (b : Byte) : (s.writeByte a b).sp = s.sp := rfl
@[simp] theorem State.writeByte_mem (a : Nat) (b : Byte) : (s.writeByte a b).mem = s.mem.write (a % memSize) b := rfl
@[simp] theorem State.writeByte_fb (a : Nat) (b : Byte) : (s.writeByte a b).fb = s.fb := rfl
@[simp] theorem State.writeByte_status (a : Nat) (b : Byte) : (s.writeByte a b).status = s.status := rfl
@[simp] theorem State.writeByte_draws (a : Nat) (b : Byte) : (s.writeByte a b).draws = s.draws := rfl
@[simp] theorem State.writeByte_cycles (a : Nat) (b : Byte) : (s.writeByte a b).cycles = s.cycles := rfl
@[simp] theorem State.writeByte_noKeyAt (a : Nat) (b : Byte) : (s.writeByte a b).noKeyAt = s.noKeyAt := rfl
@[simp] theorem State.reg_writeByte (a : Nat) (b : Byte) (q : RegIx) : (s.writeByte a b).reg q = s.reg q := rfl
@[simp] theorem State.pixel_writeByte (a : Nat) (b : Byte) (x : Fin 64) (y : Fin 32) : (s.writeByte a b).pixel x y = s.pixel x y := rfl
@[simp] theorem State.dataAddr_writeByte (a : Nat) (b : Byte) (k : Nat) : (s.writeByte a b).dataAddr k = s.dataAddr k := rfl

/-! ### setIndex -/

@[simp] theorem State.setIndex_v (a : Addr) : (s.setIndex a).v = s.v := rfl
@[simp] theorem State.setIndex_i (a : Addr) : (s.setIndex a).i = a := rfl
@[simp] theorem State.setIndex_pc (a : Addr) : (s.setIndex a).pc = s.pc := rfl
@[simp] theorem State.setIndex_dt (a : Addr) : (s.setIndex a).dt = s.dt := rfl
@[simp] theorem State.setIndex_st (a : Addr) : (s.setIndex a).st = s.st := rfl
@[simp] theorem State.setIndex_sp (a : Addr) : (s.setIndex a).sp = s.sp := rfl
@[simp] theorem State.setIndex_mem (a : Addr) : (s.setIndex a).mem = s.mem := rfl
@[simp] theorem State.setIndex_fb (a : Addr) : (s.setIndex a).fb = s.fb := rfl
@[simp] theorem State.setIndex_status (a : Addr) : (s.setIndex a).status = s.status := rfl
@[simp] theorem State.setIndex_draws (a : Addr) : (s.setIndex a).draws = s.draws := rfl
@[simp] theorem State.setIndex_cycles (a : Addr) : (s.setIndex a).cycles = s.cycles := rfl
@[simp] theorem State.setIndex_noKeyAt (a : Addr) : (s.setIndex a).noKeyAt = s.noKeyAt := rfl
@[simp] theorem State.reg_setIndex (a : Addr) (q : RegIx) : (s.setIndex a).reg q = s.reg q := rfl
@[simp] theorem State.readByte_setIndex (a : Addr) (x : Nat) : (s.setIndex a).readByte x = s.readByte x := rfl
@[simp] theorem State.pixel_setIndex (a : Addr) (x : Fin 64) (y : Fin 32) : (s.setIndex a).pixel x y = s.pixel x y := rfl

/-! ### setPc -/

@[simp] theorem State.setPc_v (p : PcWord) : (s.setPc p).v = s.v := rfl
@[simp] theorem State.setPc_i (p : PcWord) : (s.setPc p).i = s.i := rfl
@[simp] theorem State.setPc_pc (p : PcWord) : (s.setPc p).pc = p := rfl
@[simp] theorem State.setPc_dt (p : PcWord) : (s.setPc p).dt = s.dt := rfl
@[simp] theorem State.setPc_st (p : PcWord) : (s.setPc p).st = s.st := rfl
@[simp] theorem State.setPc_sp (p : PcWord) : (s.setPc p).sp = s.sp := rfl
@[simp] theorem State.setPc_mem (p : PcWord) : (s.setPc p).mem = s.mem := rfl
@[simp] theorem State.setPc_fb (p : PcWord) : (s.setPc p).fb = s.fb := rfl
@[simp] theorem State.setPc_status (p : PcWord) : (s.setPc p).status = s.status := rfl
@[simp] theorem State.setPc_draws (p : PcWord) : (s.setPc p).draws = s.draws := rfl
@[simp] theorem State.setPc_cycles (p : PcWord) : (s.setPc p).cycles = s.cycles := rfl
@[simp] theorem State.setPc_noKeyAt (p : PcWord) : (s.setPc p).noKeyAt = s.noKeyAt := rfl
@[simp] theorem State.reg_setPc (p : PcWord) (q : RegIx) : (s.setPc p).reg q = s.reg q := rfl
@[simp] theorem State.readByte_setPc (p : PcWord) (x : Nat) : (s.setPc p).readByte x = s.readByte x := rfl
@[simp] theorem State.pixel_setPc (p : PcWord) (x : Fin 64) (y : Fin 32) : (s.setPc p).pixel x y = s.pixel x y := rfl
@[simp] theorem State.dataAddr_setPc (p : PcWord) (k : Nat) : (s.setPc p).dataAddr k = s.dataAddr k := rfl

/-! ### advancePc -/

@[simp] theorem State.advancePc_v : s.advancePc.v = s.v := rfl
@[simp] theorem State.advancePc_i : s.advancePc.i = s.i := rfl
@[simp] theorem State.advancePc_pc : s.advancePc.pc = s.pc + instrBytes := rfl
@[simp] theorem State.advancePc_dt : s.advancePc.dt = s.dt := rfl
@[simp] theorem State.advancePc_st : s.advancePc.st = s.st := rfl
@[simp] theorem State.advancePc_sp : s.advancePc.sp = s.sp := rfl
@[simp] theorem State.advancePc_mem : s.advancePc.mem = s.mem := rfl
@[simp] theorem State.advancePc_fb : s.advancePc.fb = s.fb := rfl
@[simp] theorem State.advancePc_status : s.advancePc.status = s.status := rfl
@[simp] theorem State.advancePc_draws : s.advancePc.draws = s.draws := rfl
@[simp] theorem State.advancePc_cycles : s.advancePc.cycles = s.cycles := rfl
@[simp] theorem State.advancePc_noKeyAt : s.advancePc.noKeyAt = s.noKeyAt := rfl
@[simp] theorem State.reg_advancePc (q : RegIx) : s.advancePc.reg q = s.reg q := rfl
@[simp] theorem State.readByte_advancePc (x : Nat) : s.advancePc.readByte x = s.readByte x := rfl
@[simp] theorem State.pixel_advancePc (x : Fin 64) (y : Fin 32) : s.advancePc.pixel x y = s.pixel x y := rfl
@[simp] theorem State.dataAddr_advancePc (k : Nat) : s.advancePc.dataAddr k = s.dataAddr k := rfl

/-! ### skipIf -/

@[simp] theorem State.skipIf_v (c : Bool) : (s.skipIf c).v = s.v := rfl
@[simp] theorem State.skipIf_i (c : Bool) : (s.skipIf c).i = s.i := rfl
@[simp] theorem State.skipIf_pc (c : Bool) : (s.skipIf c).pc = if c then s.pc + instrBytes else s.pc := rfl
@[simp] theorem State.skipIf_dt (c : Bool) : (s.skipIf c).dt = s.dt := rfl
@[simp] theorem State.skipIf_st (c : Bool) : (s.skipIf c).st = s.st := rfl
@[simp] theorem State.skipIf_sp (c : Bool) : (s.skipIf c).sp = s.sp := rfl
@[simp] theorem State.skipIf_mem (c : Bool) : (s.skipIf c).mem = s.mem := rfl
@[simp] theorem State.skipIf_fb (c : Bool) : (s.skipIf c).fb = s.fb := rfl
@[simp] theorem State.skipIf_status (c : Bool) : (s.skipIf c).status = s.status := rfl
@[simp] theorem State.skipIf_draws (c : Bool) : (s.skipIf c).draws = s.draws := rfl
@[simp] theorem State.skipIf_cycles (c : Bool) : (s.skipIf c).cycles = s.cycles := rfl
@[simp] theorem State.skipIf_noKeyAt (c : Bool) : (s.skipIf c).noKeyAt = s.noKeyAt := rfl
@[simp] theorem State.reg_skipIf (c : Bool) (q : RegIx) : (s.skipIf c).reg q = s.reg q := rfl
@[simp] theorem State.readByte_skipIf (c : Bool) (x : Nat) : (s.skipIf c).readByte x = s.readByte x := rfl
@[simp] theorem State.pixel_skipIf (c : Bool) (x : Fin 64) (y : Fin 32) : (s.skipIf c).pixel x y = s.pixel x y := rfl
@[simp] theorem State.dataAddr_skipIf (c : Bool) (k : Nat) : (s.skipIf c).dataAddr k = s.dataAddr k := rfl

/-! ### setDelay -/

@[simp] theorem State.setDelay_v (b : Byte) : (s.setDelay b).v = s.v := rfl
@[simp] theorem State.setDelay_i (b : Byte) : (s.setDelay b).i = s.i := rfl
@[simp] theorem State.setDelay_pc (b : Byte) : (s.setDelay b).pc = s.pc := rfl
@[simp] theorem State.setDelay_dt (b : Byte) : (s.setDelay b).dt = b := rfl
@[simp] theorem State.setDelay_st (b : Byte) : (s.setDelay b).st = s.st := rfl
@[simp] theorem State.setDelay_sp (b : Byte) : (s.setDelay b).sp = s.sp := rfl
@[simp] theorem State.setDelay_mem (b : Byte) : (s.setDelay b).mem = s.mem := rfl
@[simp] theorem State.setDelay_fb (b : Byte) : (s.setDelay b).fb = s.fb := rfl
@[simp] theorem State.setDelay_status (b : Byte) : (s.setDelay b).status = s.status := rfl
@[simp] theorem State.setDelay_draws (b : Byte) : (s.setDelay b).draws = s.draws := rfl
@[simp] theorem State.setDelay_cycles (b : Byte) : (s.setDelay b).cycles = s.cycles := rfl
@[simp] theorem State.setDelay_noKeyAt (b : Byte) : (s.setDelay b).noKeyAt = s.noKeyAt := rfl
@[simp] theorem State.reg_setDelay (b : Byte) (q : RegIx) : (s.setDelay b).reg q = s.reg q := rfl
@[simp] theorem State.readByte_setDelay (b : Byte) (x : Nat) : (s.setDelay b).readByte x = s.readByte x := rfl
@[simp] theorem State.pixel_setDelay (b : Byte) (x : Fin 64) (y : Fin 32) : (s.setDelay b).pixel x y = s.pixel x y := rfl
@[simp] theorem State.dataAddr_setDelay (b : Byte) (k : Nat) : (s.setDelay b).dataAddr k = s.dataAddr k := rfl

/-! ### setSound -/

@[simp] theorem State.setSound_v (b : Byte) : (s.setSound b).v = s.v := rfl
@[simp] theorem State.setSound_i (b : Byte) : (s.setSound b).i = s.i := rfl
@[simp] theorem State.setSound_pc (b : Byte) : (s.setSound b).pc = s.pc := rfl
@[simp] theorem State.setSound_dt (b : Byte) : (s.setSound b).dt = s.dt := rfl
@[simp] theorem State.setSound_st (b : Byte) : (s.setSound b).st = b := rfl
@[simp] theorem State.setSound_sp (b : Byte) : (s.setSound b).sp = s.sp := rfl
@[simp] theorem State.setSound_mem (b : Byte) : (s.setSound b).mem = s.mem := rfl
@[simp] theorem State.setSound_fb (b : Byte) : (s.setSound b).fb = s.fb := rfl
@[simp] theorem State.setSound_status (b : Byte) : (s.setSound b).status = s.status := rfl
@[simp] theorem State.setSound_draws (b : Byte) : (s.setSound b).draws = s.draws := rfl
@[simp] theorem State.setSound_cycles (b : Byte) : (s.setSound b).cycles = s.cycles := rfl
@[simp] theorem State.setSound_noKeyAt (b : Byte) : (s.setSound b).noKeyAt = s.noKeyAt := rfl
@[simp] theorem State.reg_setSound (b : Byte) (q : RegIx) : (s.setSound b).reg q = s.reg q := rfl
@[simp] theorem State.readByte_setSound (b : Byte) (x : Nat) : (s.setSound b).readByte x = s.readByte x := rfl
@[simp] theorem State.pixel_setSound (b : Byte) (x : Fin 64) (y : Fin 32) : (s.setSound b).pixel x y = s.pixel x y := rfl
@[simp] theorem State.dataAddr_setSound (b : Byte) (k : Nat) : (s.setSound b).dataAddr k = s.dataAddr k := rfl

/-! ### setDepth -/

@[simp] theorem State.setDepth_v (n : Nat) : (s.setDepth n).v = s.v := rfl
@[simp] theorem State.setDepth_i (n : Nat) : (s.setDepth n).i = s.i := rfl
@[simp] theorem State.setDepth_pc (n : Nat) : (s.setDepth n).pc = s.pc := rfl
@[simp] theorem State.setDepth_dt (n : Nat) : (s.setDepth n).dt = s.dt := rfl
@[simp] theorem State.setDepth_st (n : Nat) : (s.setDepth n).st = s.st := rfl
@[simp] theorem State.setDepth_sp (n : Nat) : (s.setDepth n).sp = n := rfl
@[simp] theorem State.setDepth_mem (n : Nat) : (s.setDepth n).mem = s.mem := rfl
@[simp] theorem State.setDepth_fb (n : Nat) : (s.setDepth n).fb = s.fb := rfl
@[simp] theorem State.setDepth_status (n : Nat) : (s.setDepth n).status = s.status := rfl
@[simp] theorem State.setDepth_draws (n : Nat) : (s.setDepth n).draws = s.draws := rfl
@[simp] theorem State.setDepth_cycles (n : Nat) : (s.setDepth n).cycles = s.cycles := rfl
@[simp] theorem State.setDepth_noKeyAt (n : Nat) : (s.setDepth n).noKeyAt = s.noKeyAt := rfl
@[simp] theorem State.reg_setDepth (n : Nat) (q : RegIx) : (s.setDepth n).reg q = s.reg q := rfl
@[simp] theorem State.readByte_setDepth (n : Nat) (x : Nat) : (s.setDepth n).readByte x = s.readByte x := rfl
@[simp] theorem State.pixel_setDepth (n : Nat) (x : Fin 64) (y : Fin 32) : (s.setDepth n).pixel x y = s.pixel x y := rfl
@[simp] theorem State.dataAddr_setDepth (n : Nat) (k : Nat) : (s.setDepth n).dataAddr k = s.dataAddr k := rfl

/-! ### setScreen -/

@[simp] theorem State.setScreen_v (fb : Screen) : (s.setScreen fb).v = s.v := rfl
@[simp] theorem State.setScreen_i (fb : Screen) : (s.setScreen fb).i = s.i := rfl
@[simp] theorem State.setScreen_pc (fb : Screen) : (s.setScreen fb).pc = s.pc := rfl
@[simp] theorem State.setScreen_dt (fb : Screen) : (s.setScreen fb).dt = s.dt := rfl
@[simp] theorem State.setScreen_st (fb : Screen) : (s.setScreen fb).st = s.st := rfl
@[simp] theorem State.setScreen_sp (fb : Screen) : (s.setScreen fb).sp = s.sp := rfl
@[simp] theorem State.setScreen_mem (fb : Screen) : (s.setScreen fb).mem = s.mem := rfl
@[simp] theorem State.setScreen_fb (fb : Screen) : (s.setScreen fb).fb = fb := rfl
@[simp] theorem State.setScreen_status (fb : Screen) : (s.setScreen fb).status = s.status := rfl
@[simp] theorem State.setScreen_draws (fb : Screen) : (s.setScreen fb).draws = s.draws := rfl
@[simp] theorem State.setScreen_cycles (fb : Screen) : (s.setScreen fb).cycles = s.cycles := rfl
@[simp] theorem State.setScreen_noKeyAt (fb : Screen) : (s.setScreen fb).noKeyAt = s.noKeyAt := rfl
@[simp] theorem State.reg_setScreen (fb : Screen) (q : RegIx) : (s.setScreen fb).reg q = s.reg q := rfl
@[simp] theorem State.readByte_setScreen (fb : Screen) (x : Nat) : (s.setScreen fb).readByte x = s.readByte x := rfl
@[simp] theorem State.dataAddr_setScreen (fb : Screen) (k : Nat) : (s.setScreen fb).dataAddr k = s.dataAddr k := rfl

/-! ### raiseHalt -/

@[simp] theorem State.raiseHalt_v (c : HaltCause) : (s.raiseHalt c).v = s.v := rfl
@[simp] theorem State.raiseHalt_i (c : HaltCause) : (s.raiseHalt c).i = s.i := rfl
@[simp] theorem State.raiseHalt_pc (c : HaltCause) : (s.raiseHalt c).pc = s.pc := rfl
@[simp] theorem State.raiseHalt_dt (c : HaltCause) : (s.raiseHalt c).dt = s.dt := rfl
@[simp] theorem State.raiseHalt_st (c : HaltCause) : (s.raiseHalt c).st = s.st := rfl
@[simp] theorem State.raiseHalt_sp (c : HaltCause) : (s.raiseHalt c).sp = s.sp := rfl
@[simp] theorem State.raiseHalt_mem (c : HaltCause) : (s.raiseHalt c).mem = s.mem := rfl
@[simp] theorem State.raiseHalt_fb (c : HaltCause) : (s.raiseHalt c).fb = s.fb := rfl
@[simp] theorem State.raiseHalt_status (c : HaltCause) : (s.raiseHalt c).status = .halted c := rfl
@[simp] theorem State.raiseHalt_draws (c : HaltCause) : (s.raiseHalt c).draws = s.draws := rfl
@[simp] theorem State.raiseHalt_cycles (c : HaltCause) : (s.raiseHalt c).cycles = s.cycles := rfl
@[simp] theorem State.raiseHalt_noKeyAt (c : HaltCause) : (s.raiseHalt c).noKeyAt = s.noKeyAt := rfl
@[simp] theorem State.reg_raiseHalt (c : HaltCause) (q : RegIx) : (s.raiseHalt c).reg q = s.reg q := rfl
@[simp] theorem State.readByte_raiseHalt (c : HaltCause) (x : Nat) : (s.raiseHalt c).readByte x = s.readByte x := rfl
@[simp] theorem State.pixel_raiseHalt (c : HaltCause) (x : Fin 64) (y : Fin 32) : (s.raiseHalt c).pixel x y = s.pixel x y := rfl
@[simp] theorem State.dataAddr_raiseHalt (c : HaltCause) (k : Nat) : (s.raiseHalt c).dataAddr k = s.dataAddr k := rfl

/-! ### answered -/

@[simp] theorem State.answered_v : s.answered.v = s.v := rfl
@[simp] theorem State.answered_i : s.answered.i = s.i := rfl
@[simp] theorem State.answered_pc : s.answered.pc = s.pc := rfl
@[simp] theorem State.answered_dt : s.answered.dt = s.dt := rfl
@[simp] theorem State.answered_st : s.answered.st = s.st := rfl
@[simp] theorem State.answered_sp : s.answered.sp = s.sp := rfl
@[simp] theorem State.answered_mem : s.answered.mem = s.mem := rfl
@[simp] theorem State.answered_fb : s.answered.fb = s.fb := rfl
@[simp] theorem State.answered_status : s.answered.status = s.status := rfl
@[simp] theorem State.answered_draws : s.answered.draws = s.draws + 1 := rfl
@[simp] theorem State.answered_cycles : s.answered.cycles = s.cycles := rfl
@[simp] theorem State.answered_noKeyAt : s.answered.noKeyAt = s.noKeyAt := rfl
@[simp] theorem State.reg_answered (q : RegIx) : s.answered.reg q = s.reg q := rfl
@[simp] theorem State.readByte_answered (x : Nat) : s.answered.readByte x = s.readByte x := rfl
@[simp] theorem State.pixel_answered (x : Fin 64) (y : Fin 32) : s.answered.pixel x y = s.pixel x y := rfl
@[simp] theorem State.dataAddr_answered (k : Nat) : s.answered.dataAddr k = s.dataAddr k := rfl

/-! ### What the key-wait port answers -/

theorem State.waitKey_none (h : s.noKeyAt = some s.draws) : s.waitKey = none := by
  simp [State.waitKey, h]

theorem State.waitKey_some (h : s.noKeyAt ≠ some s.draws) :
    s.waitKey = some (Config.waitKey s.draws) := by
  simp [State.waitKey, h]

/-! ### Reading back a register -/

theorem State.reg_setReg (r q : RegIx) (b : Byte) :
    (s.setReg r b).reg q = if q = r then b else s.reg q := by
  simp only [State.reg, State.setReg, Vector.getElem_set, Fin.ext_iff, eq_comm]

@[simp] theorem State.reg_setReg_self (r : RegIx) (b : Byte) : (s.setReg r b).reg r = b := by
  simp [State.reg_setReg]

@[simp] theorem State.reg_setReg_ne (r q : RegIx) (b : Byte) (h : q ≠ r) :
    (s.setReg r b).reg q = s.reg q := by
  simp [State.reg_setReg, h]

/-! ### The counters of the timers -/

@[simp] theorem timerAfter_zero (n : Nat) : timerAfter n 0 = 0 := rfl

theorem timerAfter_toNat (n : Nat) (b : Byte) : (timerAfter n b).toNat = b.toNat - n := by
  unfold timerAfter
  split
  · next h => subst h; simp
  · rw [BitVec.toNat_ofNat, Nat.mod_eq_of_lt]; have := b.isLt; omega

theorem State.ticks_ready (n : Nat) (h : s.status = .ready) :
    s.ticks n = { s with dt := timerAfter n s.dt, st := timerAfter n s.st } := by
  simp [State.ticks, h]

theorem State.ticks_halted (n : Nat) (c : HaltCause) (h : s.status = .halted c) :
    s.ticks n = s := by
  simp [State.ticks, h]

/-- Ticks change the two timers and nothing else. -/
theorem State.ticks_cases (n : Nat) :
    s.ticks n = s ∨ s.ticks n = { s with dt := timerAfter n s.dt, st := timerAfter n s.st } := by
  unfold State.ticks
  split
  · exact .inr rfl
  · exact .inl rfl

@[simp] theorem State.ticks_v (n : Nat) : (s.ticks n).v = s.v := by
  obtain h | h := s.ticks_cases n <;> rw [h]
@[simp] theorem State.ticks_i (n : Nat) : (s.ticks n).i = s.i := by
  obtain h | h := s.ticks_cases n <;> rw [h]
@[simp] theorem State.ticks_pc (n : Nat) : (s.ticks n).pc = s.pc := by
  obtain h | h := s.ticks_cases n <;> rw [h]
@[simp] theorem State.ticks_sp (n : Nat) : (s.ticks n).sp = s.sp := by
  obtain h | h := s.ticks_cases n <;> rw [h]
@[simp] theorem State.ticks_mem (n : Nat) : (s.ticks n).mem = s.mem := by
  obtain h | h := s.ticks_cases n <;> rw [h]
@[simp] theorem State.ticks_fb (n : Nat) : (s.ticks n).fb = s.fb := by
  obtain h | h := s.ticks_cases n <;> rw [h]
@[simp] theorem State.ticks_status (n : Nat) : (s.ticks n).status = s.status := by
  obtain h | h := s.ticks_cases n <;> rw [h]
@[simp] theorem State.ticks_draws (n : Nat) : (s.ticks n).draws = s.draws := by
  obtain h | h := s.ticks_cases n <;> rw [h]
@[simp] theorem State.ticks_cycles (n : Nat) : (s.ticks n).cycles = s.cycles := by
  obtain h | h := s.ticks_cases n <;> rw [h]
@[simp] theorem State.ticks_noKeyAt (n : Nat) : (s.ticks n).noKeyAt = s.noKeyAt := by
  obtain h | h := s.ticks_cases n <;> rw [h]

/-! ### What precedes a cycle -/

@[simp] theorem State.beforeCycle_cycles : s.beforeCycle.cycles = s.cycles + 1 := rfl
@[simp] theorem State.beforeCycle_v : s.beforeCycle.v = s.v := by
  simp [State.beforeCycle]
@[simp] theorem State.beforeCycle_i : s.beforeCycle.i = s.i := by
  simp [State.beforeCycle]
@[simp] theorem State.beforeCycle_pc : s.beforeCycle.pc = s.pc := by
  simp [State.beforeCycle]
@[simp] theorem State.beforeCycle_sp : s.beforeCycle.sp = s.sp := by
  simp [State.beforeCycle]
@[simp] theorem State.beforeCycle_mem : s.beforeCycle.mem = s.mem := by
  simp [State.beforeCycle]
@[simp] theorem State.beforeCycle_fb : s.beforeCycle.fb = s.fb := by
  simp [State.beforeCycle]
@[simp] theorem State.beforeCycle_status : s.beforeCycle.status = s.status := by
  simp [State.beforeCycle]
@[simp] theorem State.beforeCycle_draws : s.beforeCycle.draws = s.draws := by
  simp [State.beforeCycle]
@[simp] theorem State.beforeCycle_noKeyAt : s.beforeCycle.noKeyAt = s.noKeyAt := by
  simp [State.beforeCycle]
@[simp] theorem State.reg_beforeCycle (q : RegIx) : s.beforeCycle.reg q = s.reg q := by
  simp [State.reg]
@[simp] theorem State.readByte_beforeCycle (a : Nat) : s.beforeCycle.readByte a = s.readByte a := by
  simp [State.readByte]
@[simp] theorem State.fetch_beforeCycle : s.beforeCycle.fetch = s.fetch := by
  simp [State.fetch]
@[simp] theorem State.pcInRange_beforeCycle : s.beforeCycle.pcInRange = s.pcInRange := by
  simp [State.pcInRange]

end Sys2Proof.Machine
end

