-- ==== Sys2Proof/Laws/Memory.lean ====
section
/-! SUPPORT. The laws of memory: a read after a write, the canonical form, and that two memories in
the canonical form are equal when they read alike. -/

namespace Sys2Proof.Machine

/-! ### The listed byte after each list operation -/

theorem Memory.find_remove (m : Memory) (a x : Nat) :
    (m.remove a).find x = if x = a then none else m.find x := by
  induction m with
  | nil => simp [Memory.remove, Memory.find]
  | cons c m ih =>
    by_cases hc : c.1 = a
    · simp only [Memory.remove, hc, if_true, ih, Memory.find]
      by_cases hx : x = a
      · simp [hx]
      · simp [hx, Ne.symm hx]
    · simp only [Memory.remove, hc, if_false, Memory.find, ih]
      by_cases hx : c.1 = x
      · simp [hx, hx ▸ hc]
      · simp [hx]

theorem Memory.find_insert (m : Memory) (a x : Nat) (b : Byte) :
    (m.insert a b).find x = if x = a then some b else m.find x := by
  induction m with
  | nil => simp [Memory.insert, Memory.find, eq_comm]
  | cons c m ih =>
    unfold Memory.insert
    split
    · next h =>
      simp only [Memory.find, ih]
      by_cases hx : c.1 = x
      · have : x ≠ a := by omega
        simp [hx, this]
      · simp [hx]
    · split
      · next h =>
        simp only [Memory.find, h]
        by_cases hx : x = a
        · simp [hx]
        · simp [Ne.symm hx, hx]
      · simp only [Memory.find]
        by_cases hx : x = a
        · simp [hx]
        · simp [Ne.symm hx, hx]

/-! ### Read after write -/

theorem Memory.read_write (m : Memory) (a x : Nat) (b : Byte) :
    (m.write a b).read x = if x = a then b else m.read x := by
  unfold Memory.write Memory.read
  split
  · next h =>
    rw [Memory.find_remove]
    by_cases hx : x = a
    · simp [hx, h]
    · simp [hx]
  · rw [Memory.find_insert]
    by_cases hx : x = a
    · simp [hx]
    · simp [hx]

/-- The machine's read of a byte after its write of a byte, both addresses masked
(20_memory.md R52, R60). -/
theorem State.readByte_writeByte (s : State) (a x : Nat) (b : Byte) :
    (s.writeByte a b).readByte x = if x % memSize = a % memSize then b else s.readByte x :=
  Memory.read_write _ _ _ _

@[simp] theorem State.readByte_writeByte_self (s : State) (a : Nat) (b : Byte) :
    (s.writeByte a b).readByte a = b := by
  simp [State.readByte_writeByte]

theorem State.readByte_writeByte_ne (s : State) (a x : Nat) (b : Byte)
    (h : x % memSize ≠ a % memSize) : (s.writeByte a b).readByte x = s.readByte x := by
  simp [State.readByte_writeByte, h]

/-- A read depends on the address modulo 4096 alone (20_memory.md R52). -/
@[simp] theorem State.readByte_mod (s : State) (a : Nat) :
    s.readByte (a % memSize) = s.readByte a := by
  simp [State.readByte]

/-! ### The canonical form is kept -/

theorem Memory.wfFrom_mono {lo hi : Nat} (h : lo ≤ hi) {m : Memory} (w : m.wfFrom hi = true) :
    m.wfFrom lo = true := by
  cases m with
  | nil => rfl
  | cons c m =>
    simp only [Memory.wfFrom, Bool.and_eq_true, decide_eq_true_eq] at w ⊢
    exact ⟨⟨⟨by omega, w.1.1.2⟩, w.1.2⟩, w.2⟩

theorem Memory.wfFrom_remove {lo : Nat} {m : Memory} (a : Nat) (w : m.wfFrom lo = true) :
    (m.remove a).wfFrom lo = true := by
  induction m generalizing lo with
  | nil => rfl
  | cons c m ih =>
    simp only [Memory.wfFrom, Bool.and_eq_true, decide_eq_true_eq] at w
    unfold Memory.remove
    split
    · exact Memory.wfFrom_mono (by omega) (ih w.2)
    · simp only [Memory.wfFrom, Bool.and_eq_true, decide_eq_true_eq]
      exact ⟨w.1, ih w.2⟩

theorem Memory.wfFrom_insert {lo : Nat} {m : Memory} {a : Nat} {b : Byte} (hlo : lo ≤ a)
    (ha : a < memSize) (hb : b ≠ resetByte a) (w : m.wfFrom lo = true) :
    (m.insert a b).wfFrom lo = true := by
  induction m generalizing lo with
  | nil => simp [Memory.insert, Memory.wfFrom, hlo, ha, hb]
  | cons c m ih =>
    simp only [Memory.wfFrom, Bool.and_eq_true, decide_eq_true_eq, bne_iff_ne] at w
    unfold Memory.insert
    split
    · next h =>
      simp only [Memory.wfFrom, Bool.and_eq_true, decide_eq_true_eq, bne_iff_ne]
      exact ⟨w.1, ih (by omega) w.2⟩
    · split
      · next h =>
        simp only [Memory.wfFrom, Bool.and_eq_true, decide_eq_true_eq, bne_iff_ne]
        exact ⟨⟨⟨hlo, ha⟩, hb⟩, h ▸ w.2⟩
      · next h h' =>
        simp only [Memory.wfFrom, Bool.and_eq_true, decide_eq_true_eq, bne_iff_ne]
        exact ⟨⟨⟨hlo, ha⟩, hb⟩, ⟨⟨by omega, w.1.1.2⟩, w.1.2⟩, w.2⟩

/-- A write to an address of the space keeps the canonical form. -/
theorem Memory.wf_write {m : Memory} {a : Nat} (b : Byte) (ha : a < memSize) (w : m.wf = true) :
    (m.write a b).wf = true := by
  unfold Memory.write
  split
  · exact Memory.wfFrom_remove a w
  · next h => exact Memory.wfFrom_insert (Nat.zero_le _) ha h w

/-- Every store of the machine keeps the canonical form. -/
theorem State.wf_writeByte {s : State} (a : Nat) (b : Byte) (w : s.mem.wf = true) :
    (s.writeByte a b).mem.wf = true :=
  Memory.wf_write b (Nat.mod_lt _ (by decide)) w

theorem State.reset_mem_wf : State.reset.mem.wf = true := rfl

/-! ### Equal reads, equal memories -/

theorem Memory.find_of_lt {lo a : Nat} {m : Memory} (w : m.wfFrom lo = true) (h : a < lo) :
    m.find a = none := by
  induction m generalizing lo with
  | nil => rfl
  | cons c m ih =>
    simp only [Memory.wfFrom, Bool.and_eq_true, decide_eq_true_eq] at w
    have hc : c.1 ≠ a := by omega
    simp [Memory.find, hc, ih w.2 (by omega)]

theorem Memory.ext_wfFrom {lo : Nat} {m n : Memory} (wm : m.wfFrom lo = true)
    (wn : n.wfFrom lo = true) (h : ∀ a, m.read a = n.read a) : m = n := by
  induction m generalizing lo n with
  | nil =>
    cases n with
    | nil => rfl
    | cons d n =>
      simp only [Memory.wfFrom, Bool.and_eq_true, bne_iff_ne] at wn
      have := h d.1
      simp [Memory.read, Memory.find] at this
      exact absurd this.symm wn.1.2
  | cons c m ih =>
    cases n with
    | nil =>
      simp only [Memory.wfFrom, Bool.and_eq_true, bne_iff_ne] at wm
      have := h c.1
      simp [Memory.read, Memory.find] at this
      exact absurd this wm.1.2
    | cons d n =>
      simp only [Memory.wfFrom, Bool.and_eq_true, decide_eq_true_eq, bne_iff_ne] at wm wn
      have hcd : c.1 = d.1 := by
        rcases Nat.lt_trichotomy c.1 d.1 with hlt | heq | hgt
        · have := h c.1
          have hd : d.1 ≠ c.1 := by omega
          have hf : Memory.find n c.1 = none := Memory.find_of_lt wn.2 (by omega)
          simp [Memory.read, Memory.find, hd, hf] at this
          exact absurd this wm.1.2
        · exact heq
        · have := h d.1
          have hc : c.1 ≠ d.1 := by omega
          have hf : Memory.find m d.1 = none := Memory.find_of_lt wm.2 (by omega)
          simp [Memory.read, Memory.find, hc, hf] at this
          exact absurd this.symm wn.1.2
      have hb : c.2 = d.2 := by
        have := h c.1
        simpa [Memory.read, Memory.find, hcd] using this
      have hc : c = d := Prod.ext hcd hb
      subst hc
      congr 1
      refine ih wm.2 wn.2 fun a => ?_
      by_cases hx : c.1 = a
      · subst hx
        simp [Memory.read, Memory.find_of_lt wm.2 (Nat.lt_succ_self _),
          Memory.find_of_lt wn.2 (Nat.lt_succ_self _)]
      · have := h a
        simpa [Memory.read, Memory.find, hx] using this

/-- The canonical form is canonical: equal reads, equal memories. -/
theorem Memory.ext_of_wf {m n : Memory} (wm : m.wf = true) (wn : n.wf = true)
    (h : ∀ a, m.read a = n.read a) : m = n :=
  Memory.ext_wfFrom wm wn h

end Sys2Proof.Machine
end

