-- ==== Sys2Proof/Laws/Operands.lean ====
section
/-! SUPPORT. What the block transfers do, element by element (45_index_memory.md R175 to R177), and
what an update made of several primitive ones leaves alone. -/

namespace Sys2Proof.Machine

theorem State.dataAddr_lt (s : State) (k : Nat) : s.dataAddr k < memSize :=
  Nat.mod_lt _ (by decide)

@[simp] theorem State.dataAddr_mod (s : State) (k : Nat) : s.dataAddr k % memSize = s.dataAddr k :=
  Nat.mod_eq_of_lt (s.dataAddr_lt k)

/-- Two elements less than 4096 apart have two addresses. -/
theorem State.dataAddr_inj (s : State) {j k : Nat} (h : s.dataAddr j = s.dataAddr k)
    (hj : j < memSize) (hk : k < memSize) : j = k := by
  simp only [State.dataAddr, memSize] at *
  omega

theorem regNo_val {k : Nat} (h : k < 16) : (regNo k).val = k := Nat.mod_eq_of_lt h

@[simp] theorem regNo_self (r : RegIx) : regNo r.val = r := Fin.ext (regNo_val r.isLt)

theorem regNo_eq {k : Nat} (r : RegIx) (h : k < 16) : r = regNo k ↔ r.val = k := by
  rw [Fin.ext_iff, regNo_val h]

/-! ### storeRange -/

section
variable (s : State) (n : Nat)

/-- A block store changes memory alone. -/
theorem State.storeRange_eq : s.storeRange n = { s with mem := (s.storeRange n).mem } := by
  induction n with
  | zero => rfl
  | succ k ih => rw [State.storeRange, State.writeByte, ih]

theorem State.storeRange_v : (s.storeRange n).v = s.v := by rw [s.storeRange_eq n]
theorem State.storeRange_reg (r : RegIx) : (s.storeRange n).reg r = s.reg r := by
  rw [s.storeRange_eq n]; rfl

/-- After storing `n` registers, byte `I + k` holds `V[k]`, and no other byte changed. -/
theorem State.readByte_storeRange (hn : n ≤ 16) (a : Nat) :
    (∀ k < n, (s.storeRange n).readByte (s.dataAddr k) = s.reg (regNo k)) ∧
    ((∀ k < n, a % memSize ≠ s.dataAddr k) → (s.storeRange n).readByte a = s.readByte a) := by
  induction n with
  | zero => exact ⟨fun k h => absurd h (Nat.not_lt_zero k), fun _ => rfl⟩
  | succ m ih =>
    obtain ⟨ihr, iho⟩ := ih (by omega)
    constructor
    · intro k hk
      rw [State.storeRange, State.readByte_writeByte]
      by_cases h : k = m
      · simp [h]
      · have : s.dataAddr k ≠ s.dataAddr m := fun e => h (s.dataAddr_inj e
          (by simp only [memSize]; omega) (by simp only [memSize]; omega))
        simp only [State.dataAddr_mod, this, if_false]
        exact ihr k (by omega)
    · intro h
      rw [State.storeRange, State.readByte_writeByte_ne]
      · exact iho fun k hk => h k (by omega)
      · rw [State.dataAddr_mod]; exact h m (by omega)

theorem State.wf_storeRange (w : s.mem.wf = true) : (s.storeRange n).mem.wf = true := by
  induction n with
  | zero => exact w
  | succ k ih => exact State.wf_writeByte _ _ ih

/-! ### loadRange -/

/-- A block load changes the general registers alone. -/
theorem State.loadRange_eq : s.loadRange n = { s with v := (s.loadRange n).v } := by
  induction n with
  | zero => rfl
  | succ k ih => rw [State.loadRange, State.setReg, ih]

/-- After loading `n` registers, `V[k]` with `k` below `n` holds byte `I + k`, and no other register
changed. -/
theorem State.reg_loadRange (hn : n ≤ 16) (r : RegIx) :
    (s.loadRange n).reg r = if r.val < n then s.readByte (s.dataAddr r.val) else s.reg r := by
  induction n with
  | zero => simp [State.loadRange]
  | succ m ih =>
    rw [State.loadRange, State.reg_setReg, ih (by omega)]
    by_cases h : r = regNo m
    · have h' := (regNo_eq r (by omega)).1 h
      rw [if_pos h, h', if_pos (by omega)]
    · have h' : r.val ≠ m := fun e => h ((regNo_eq r (by omega)).2 e)
      rw [if_neg h]
      by_cases hl : r.val < m
      · rw [if_pos hl, if_pos (by omega)]
      · rw [if_neg hl, if_neg (by omega)]

end

/-! ### Flag and result -/

/-- Result first: `VF` ends as the flag, whatever the destination (44_load_alu.md R164). -/
theorem State.reg_setResultThenFlag (s : State) (x q : RegIx) (result flag : Byte) :
    (s.setResultThenFlag x result flag).reg q =
      if q = vf then flag else if q = x then result else s.reg q := by
  simp [State.setResultThenFlag, State.reg_setReg]

/-- Flag first: the destination ends as the result, `VF` too when it is the destination
(44_load_alu.md R164). -/
theorem State.reg_setFlagThenResult (s : State) (x q : RegIx) (result flag : Byte) :
    (s.setFlagThenResult x result flag).reg q =
      if q = x then result else if q = vf then flag else s.reg q := by
  simp [State.setFlagThenResult, State.reg_setReg]

/-! ### Operands as numbers -/

theorem absTarget_toNat (nnn : Addr) : (absTarget nnn).toNat = nnn.toNat := by
  have := nnn.isLt
  simp only [absTarget, BitVec.toNat_setWidth]
  omega

theorem State.offsetTarget_toNat (s : State) (nnn : Addr) :
    (s.offsetTarget nnn).toNat = (s.reg v0).toNat + nnn.toNat := by
  have := nnn.isLt; have := (s.reg v0).isLt
  simp only [State.offsetTarget, BitVec.toNat_add, BitVec.toNat_setWidth]
  omega

theorem indexSum_toNat (i : Addr) (b : Byte) :
    (indexSum i b).toNat = (i.toNat + b.toNat) % memSize := by
  have := b.isLt
  simp only [indexSum, BitVec.toNat_add, BitVec.toNat_setWidth, memSize]
  omega

theorem glyphAddr_toNat (b : Byte) : (glyphAddr b).toNat = 5 * (b.toNat % 16) := by
  simp only [glyphAddr, fontBase, glyphBytes, BitVec.toNat_ofNat, BitVec.extractLsb'_toNat,
    Nat.shiftRight_zero]
  omega

theorem hundreds_toNat (b : Byte) : (hundreds b).toNat = b.toNat / 100 := by
  have := b.isLt
  simp only [hundreds, BitVec.toNat_ofNat]; omega
theorem tens_toNat (b : Byte) : (tens b).toNat = b.toNat / 10 % 10 := by
  simp only [tens, BitVec.toNat_ofNat]; omega
theorem ones_toNat (b : Byte) : (ones b).toNat = b.toNat % 10 := by
  simp only [ones, BitVec.toNat_ofNat]; omega

end Sys2Proof.Machine
end

