-- ==== Sys2Proof/Laws/Decode.lean ====
section
/-! SUPPORT. The fields of an opcode built by each format (30_encoding.md R81, R82), that the fields
of any opcode build it again, and what a format's mask leaves of an opcode (R92). -/

namespace Sys2Proof

@[simp] theorem regOfNibble_nibbleOfReg (r : RegIx) : regOfNibble (nibbleOfReg r) = r := rfl
@[simp] theorem nibbleOfReg_regOfNibble (b : Nibble) : nibbleOfReg (regOfNibble b) = b := rfl

/-! ### Fields of a built opcode -/

@[simp] theorem formatA_c (c : Nibble) (nnn : Addr) : (formatA c nnn).c = c := by
  ext i hi
  interval_cases i <;> simp [formatA, Opcode.c]
@[simp] theorem formatA_nnn (c : Nibble) (nnn : Addr) : (formatA c nnn).nnn = nnn := by
  ext i hi
  interval_cases i <;> simp [formatA, Opcode.nnn]

@[simp] theorem formatI_c (c x : Nibble) (nn : Byte) : (formatI c x nn).c = c := by
  ext i hi
  interval_cases i <;> simp [formatI, Opcode.c]
@[simp] theorem formatI_x (c x : Nibble) (nn : Byte) : (formatI c x nn).x = x := by
  ext i hi
  interval_cases i <;> simp [formatI, Opcode.x]
@[simp] theorem formatI_nn (c x : Nibble) (nn : Byte) : (formatI c x nn).nn = nn := by
  ext i hi
  interval_cases i <;> simp [formatI, Opcode.nn]

@[simp] theorem formatR_c (c x y n : Nibble) : (formatR c x y n).c = c := by
  ext i hi
  interval_cases i <;> simp [formatR, Opcode.c]
@[simp] theorem formatR_x (c x y n : Nibble) : (formatR c x y n).x = x := by
  ext i hi
  interval_cases i <;> simp [formatR, Opcode.x]
@[simp] theorem formatR_y (c x y n : Nibble) : (formatR c x y n).y = y := by
  ext i hi
  interval_cases i <;> simp [formatR, Opcode.y]
@[simp] theorem formatR_n (c x y n : Nibble) : (formatR c x y n).n = n := by
  ext i hi
  interval_cases i <;> simp [formatR, Opcode.n]

/-! ### An opcode is built again from its fields -/

/-- Every opcode is its class and `NNN`. -/
theorem Opcode.eq_formatA (w : Opcode) : formatA w.c w.nnn = w := by
  ext i hi
  interval_cases i <;> simp [formatA, Opcode.c, Opcode.nnn]

/-- Every opcode is its class, `X` and `NN`. -/
theorem Opcode.eq_formatI (w : Opcode) : formatI w.c w.x w.nn = w := by
  ext i hi
  interval_cases i <;> simp [formatI, Opcode.c, Opcode.x, Opcode.nn]

/-- Every opcode is its class, `X`, `Y` and `N`. -/
theorem Opcode.eq_formatR (w : Opcode) : formatR w.c w.x w.y w.n = w := by
  ext i hi
  interval_cases i <;> simp [formatR, Opcode.c, Opcode.x, Opcode.y, Opcode.n]

/-! ### Bytes of an opcode -/

@[simp] theorem highByte_joinBytes (hi lo : Byte) : highByte (joinBytes hi lo) = hi := by
  ext i h
  interval_cases i <;> simp [highByte, joinBytes]
@[simp] theorem lowByte_joinBytes (hi lo : Byte) : lowByte (joinBytes hi lo) = lo := by
  ext i h
  interval_cases i <;> simp [lowByte, joinBytes]
@[simp] theorem joinBytes_high_low (w : BitVec 16) : joinBytes (highByte w) (lowByte w) = w := by
  ext i h
  interval_cases i <;> simp [highByte, lowByte, joinBytes]

@[simp] theorem opcodeOfBytes_bytesOfOpcode (w : Opcode) :
    opcodeOfBytes (bytesOfOpcode w).1 (bytesOfOpcode w).2 = w :=
  joinBytes_high_low w

/-! ### What the masks of the opcode map leave (R92) -/

theorem formatA_mask (c : Nibble) (nnn : Addr) : formatA c nnn &&& 0xF000#16 = formatA c 0 := by
  ext i hi
  interval_cases i <;> simp [formatA]
theorem formatI_mask (c x : Nibble) (nn : Byte) :
    formatI c x nn &&& 0xF0FF#16 = formatI c 0 nn := by
  ext i hi
  interval_cases i <;> simp [formatI]
theorem formatI_classMask (c x : Nibble) (nn : Byte) :
    formatI c x nn &&& 0xF000#16 = formatI c 0 0 := by
  ext i hi
  interval_cases i <;> simp [formatI]
theorem formatR_mask (c x y n : Nibble) :
    formatR c x y n &&& 0xF00F#16 = formatR c 0 0 n := by
  ext i hi
  interval_cases i <;> simp [formatR]
theorem formatR_classMask (c x y n : Nibble) :
    formatR c x y n &&& 0xF000#16 = formatR c 0 0 0 := by
  ext i hi
  interval_cases i <;> simp [formatR]

end Sys2Proof
end

