-- ==== Sys2Proof/Laws/Stack.lean ====
section
/-! SUPPORT. What push, pop and the end of an execute phase can do (10_state.md R31, R32;
60_exceptions.md R206). -/

namespace Sys2Proof.Machine

/-- A push on a full stack raises, one on any other stores both bytes and counts. -/
theorem State.push_full (s : State) (a : PcWord) (h : s.sp = stackCapacity) :
    s.push a = .error .stackOverflow := by
  simp [State.push, h]

theorem State.push_room (s : State) (a : PcWord) (h : s.sp ≠ stackCapacity) :
    s.push a = .ok (((s.writeByte (stackAddr s.sp) (highByte a)).writeByte
      (stackAddr s.sp + 1) (lowByte a)).setDepth (s.sp + 1)) := by
  simp [State.push, h]

theorem State.pop_empty (s : State) (h : s.sp = 0) : s.pop = .error .stackUnderflow := by
  simp [State.pop, h]

theorem State.pop_some (s : State) (h : s.sp ≠ 0) :
    s.pop = .ok (s.stackEntry (s.sp - 1), s.setDepth (s.sp - 1)) := by
  simp [State.pop, h]

@[simp] theorem State.orHalt_ok (s t : State) : s.orHalt (.ok t) = .next t := rfl
@[simp] theorem State.orHalt_error (s : State) (c : HaltCause) :
    s.orHalt (.error c) = .next (s.raiseHalt c) := rfl

/-- The whole stack area lies inside memory. -/
theorem stackAddr_lt {k : Nat} (h : k < stackCapacity) : stackAddr k + 1 < memSize := by
  simp only [stackAddr, stackBase, stackEntryBytes, stackCapacity, memSize] at *
  omega

/-- The entry just pushed is the address pushed (10_state.md R31, R32). -/
theorem State.stackEntry_pushed (s : State) (a : PcWord) (n : Nat) (h : s.sp < stackCapacity) :
    (((s.writeByte (stackAddr s.sp) (highByte a)).writeByte (stackAddr s.sp + 1)
      (lowByte a)).setDepth n).stackEntry s.sp = a := by
  have hb := stackAddr_lt h
  have hne : stackAddr s.sp % memSize ≠ (stackAddr s.sp + 1) % memSize := by
    rw [Nat.mod_eq_of_lt (by omega), Nat.mod_eq_of_lt hb]; omega
  unfold State.stackEntry
  rw [State.readByte_setDepth, State.readByte_setDepth, State.readByte_writeByte_ne _ _ _ _ hne,
    State.readByte_writeByte_self, State.readByte_writeByte_self, joinBytes_high_low]

end Sys2Proof.Machine
end

