-- ==== Sys2Proof/Laws/Cycle.lean ====
section
/-! SUPPORT. Everything a cycle can do (40_cycle.md R107), said once; and that a frame composes. -/

namespace Sys2Proof.Machine

/-- A cycle on a halted core: nothing but the cause. -/
theorem State.cycle_halted (s : State) (c : HaltCause) (h : s.status = .halted c) :
    s.cycle = .fault (.halted c) := by
  simp [State.cycle, h]

theorem State.cycle_outOfRange (s : State) (h : s.status = .ready) (hp : s.pcInRange = false) :
    s.cycle = .next (s.raiseHalt .pcOutOfBounds) := by
  simp [State.cycle, h, hp]

theorem State.cycle_illegal (s : State) (e : DecodeError) (h : s.status = .ready)
    (hp : s.pcInRange = true) (hd : decodeOpcode s.fetch = .error e) :
    s.cycle = .next (s.advancePc.raiseHalt .invalidOpcode) := by
  simp [State.cycle, h, hp, hd]

theorem State.cycle_runs (s : State) (i : Instr) (h : s.status = .ready)
    (hp : s.pcInRange = true) (hd : decodeOpcode s.fetch = .ok i) :
    s.cycle = exec i s.advancePc := by
  simp [State.cycle, h, hp, hd]

/-- If a cycle answers a next state, one of these is how. -/
theorem State.cycle_cases {s t : State} (h : s.cycle = .next t) : s.status = .ready ∧
    ((s.pcInRange = false ∧ t = s.raiseHalt .pcOutOfBounds) ∨
     (s.pcInRange = true ∧ ∃ e, decodeOpcode s.fetch = .error e ∧
        t = s.advancePc.raiseHalt .invalidOpcode) ∨
     (s.pcInRange = true ∧ ∃ i, decodeOpcode s.fetch = .ok i ∧ exec i s.advancePc = .next t)) := by
  match hs : s.status with
  | .halted c => rw [s.cycle_halted c hs] at h; cases h
  | .ready =>
    refine ⟨rfl, ?_⟩
    match hp : s.pcInRange with
    | false =>
      rw [s.cycle_outOfRange hs hp] at h
      cases h; exact .inl ⟨rfl, rfl⟩
    | true =>
      match hd : decodeOpcode s.fetch with
      | .error e =>
        rw [s.cycle_illegal e hs hp hd] at h
        cases h; exact .inr (.inl ⟨rfl, e, rfl, rfl⟩)
      | .ok i =>
        rw [s.cycle_runs i hs hp hd] at h
        exact .inr (.inr ⟨rfl, i, rfl, h⟩)

/-- If a cycle request returns, the cycle answered that state, or the core was halted and is as it
was. -/
theorem State.serveCycle_cases {s : State} {p : Reply × State} (h : s.serveCycle = some p) :
    s.cycle = .next p.2 ∨ p.2 = s := by
  unfold State.serveCycle at h
  split at h <;> cases h
  · next hc => exact .inl hc
  · exact .inr rfl

/-- The first two bytes decode as the opcode they make. -/
theorem decode_pair (hi lo : Byte) : decode [hi, lo] =
    match decodeOpcode (opcodeOfBytes hi lo) with
    | .ok i => .ok (i, [])
    | .error e => .error e := rfl

/-- The range check is the two comparisons of 40_cycle.md R101. -/
theorem State.pcInRange_iff (s : State) :
    s.pcInRange = true ↔ 0x200 ≤ s.pc.toNat ∧ s.pc.toNat ≤ 0xE9F := by
  simp [State.pcInRange, progOrigin, progEnd]

theorem Frame.refl (s : State) (regs : List RegIx) (stored : List Nat) (parts : List StatePart) :
    Frame regs stored parts s s :=
  ⟨fun _ _ => rfl, fun _ _ => rfl, fun p _ => by cases p <;> rfl⟩

/-- Every byte of a ROM is where the load put it, and no byte outside its addresses changed. -/
theorem State.readByte_writeBlock (bs : List Byte) (s : State) (a : Nat)
    (h : a + bs.length ≤ memSize) (x : Nat) : (s.writeBlock a bs).readByte x =
      if hx : a ≤ x % memSize ∧ x % memSize < a + bs.length then bs[x % memSize - a]'(by omega)
      else s.readByte x := by
  induction bs generalizing s a with
  | nil => simp [State.writeBlock]
  | cons b bs ih =>
    simp only [List.length_cons] at h
    rw [State.writeBlock, ih _ _ (by omega), State.readByte_writeByte,
      Nat.mod_eq_of_lt (show a < memSize by omega)]
    by_cases h0 : x % memSize = a
    · rw [dif_neg (by omega), dif_pos (by simp; omega), if_pos h0]
      simp [h0]
    · by_cases h1 : a + 1 ≤ x % memSize ∧ x % memSize < a + 1 + bs.length
      · rw [dif_pos h1, dif_pos (by simp; omega)]
        have : x % memSize - a = (x % memSize - (a + 1)) + 1 := by omega
        simp [this]
      · rw [dif_neg h1, if_neg h0, dif_neg (by simp; omega)]

/-- A block of stores changes memory alone. -/
theorem State.writeBlock_eq (bs : List Byte) (s : State) (a : Nat) :
    s.writeBlock a bs = { s with mem := (s.writeBlock a bs).mem } := by
  induction bs generalizing s a with
  | nil => rfl
  | cons b bs ih => rw [State.writeBlock, ih]; rfl

theorem State.wf_writeBlock (bs : List Byte) (s : State) (a : Nat) (w : s.mem.wf = true) :
    (s.writeBlock a bs).mem.wf = true := by
  induction bs generalizing s a with
  | nil => exact w
  | cons b bs ih => exact ih _ _ (State.wf_writeByte _ _ w)

end Sys2Proof.Machine
end

