-- ==== Sys2Proof/Laws/Flags.lean ====
section
/-! SUPPORT. What the arithmetic and the flags are as numbers: one lemma per operation of
Flags.lean, and the bytes a flag can be (44_load_alu.md R163, 10_state.md R22). -/

namespace Sys2Proof.Machine

theorem flagByte_toNat (b : Bool) : (flagByte b).toNat = if b then 1 else 0 := by
  cases b <;> rfl

theorem addSum_toNat (a b : Byte) : (addSum a b).toNat = a.toNat + b.toNat := by
  have := a.isLt; have := b.isLt
  simp only [addSum, BitVec.toNat_add, BitVec.toNat_setWidth]
  omega

theorem addResult_toNat (a b : Byte) : (addResult a b).toNat = (a.toNat + b.toNat) % 256 := by
  simp [addResult, BitVec.extractLsb'_toNat, addSum_toNat]

theorem addCarry_toNat (a b : Byte) :
    (addCarry a b).toNat = if a.toNat + b.toNat > 255 then 1 else 0 := by
  have := a.isLt; have := b.isLt
  have h : (addSum a b).getLsbD 8 = decide (a.toNat + b.toNat > 255) := by
    rw [BitVec.getLsbD, addSum_toNat, Nat.testBit_eq_decide_div_mod_eq]
    congr 1
    exact propext (by omega)
  rw [addCarry, h, flagByte_toNat]
  simp

theorem subResult_toNat (a b : Byte) :
    (subResult a b).toNat = (a.toNat + 256 - b.toNat) % 256 := by
  have := a.isLt; have := b.isLt
  simp only [subResult, BitVec.toNat_sub]
  omega

theorem subNoBorrow_toNat (a b : Byte) :
    (subNoBorrow a b).toNat = if a.toNat ≥ b.toNat then 1 else 0 := by
  simp [subNoBorrow, flagByte_toNat, BitVec.le_def]

theorem shrResult_toNat (a : Byte) : (shrResult a).toNat = a.toNat / 2 := by
  simp [shrResult, Nat.shiftRight_eq_div_pow]

theorem shrFlag_toNat (a : Byte) : (shrFlag a).toNat = a.toNat % 2 := by
  simp [shrFlag, Nat.and_one_is_mod]

theorem shlResult_toNat (a : Byte) : (shlResult a).toNat = (2 * a.toNat) % 256 := by
  simp [shlResult, Nat.shiftLeft_eq, Nat.mul_comm]

theorem shlFlag_toNat (a : Byte) : (shlFlag a).toNat = a.toNat / 128 := by
  have := a.isLt
  rw [shlFlag, flagByte_toNat, BitVec.getLsbD, Nat.testBit_eq_decide_div_mod_eq]
  by_cases h : a.toNat < 128
  · have h0 : a.toNat / 128 = 0 := by omega
    simp [h0]
  · have h1 : a.toNat / 128 = 1 := by omega
    simp [h1]

end Sys2Proof.Machine
end

