-- ==== Sys2Proof/Laws/PerInstr.lean ====
section
/-! SUPPORT. The law of each instruction's encoding: its opcode has the fixed bits of its row of the
opcode map (30_encoding.md R92). -/

/-- The opcode of the instruction, under the mask of the instruction's row, is the row's match. -/
def Sys2Proof.Laws.FixedBits.Statement (i : Sys2Proof.Instr) : Prop :=
  Sys2Proof.encode i &&& (Sys2Proof.rowOf i).mask = (Sys2Proof.rowOf i).pattern

section
open Sys2Proof Sys2Proof.Laws.FixedBits

theorem Sys2Proof.Laws.FixedBits.cls (u : Nibble) : Statement (.cls u) :=
  (formatI_mask ..).trans rfl
theorem Sys2Proof.Laws.FixedBits.ret (u : Nibble) : Statement (.ret u) :=
  (formatI_mask ..).trans rfl
theorem Sys2Proof.Laws.FixedBits.jp (nnn : Addr) : Statement (.jp nnn) :=
  (formatA_mask ..).trans rfl
theorem Sys2Proof.Laws.FixedBits.call (nnn : Addr) : Statement (.call nnn) :=
  (formatA_mask ..).trans rfl
theorem Sys2Proof.Laws.FixedBits.seImm (x : RegIx) (nn : Byte) : Statement (.seImm x nn) :=
  (formatI_classMask ..).trans rfl
theorem Sys2Proof.Laws.FixedBits.sneImm (x : RegIx) (nn : Byte) : Statement (.sneImm x nn) :=
  (formatI_classMask ..).trans rfl
theorem Sys2Proof.Laws.FixedBits.seReg (x y : RegIx) : Statement (.seReg x y) :=
  (formatR_mask ..).trans rfl
theorem Sys2Proof.Laws.FixedBits.ldImm (x : RegIx) (nn : Byte) : Statement (.ldImm x nn) :=
  (formatI_classMask ..).trans rfl
theorem Sys2Proof.Laws.FixedBits.addImm (x : RegIx) (nn : Byte) : Statement (.addImm x nn) :=
  (formatI_classMask ..).trans rfl
theorem Sys2Proof.Laws.FixedBits.ldReg (x y : RegIx) : Statement (.ldReg x y) :=
  (formatR_mask ..).trans rfl
theorem Sys2Proof.Laws.FixedBits.or (x y : RegIx) : Statement (.or x y) :=
  (formatR_mask ..).trans rfl
theorem Sys2Proof.Laws.FixedBits.and (x y : RegIx) : Statement (.and x y) :=
  (formatR_mask ..).trans rfl
theorem Sys2Proof.Laws.FixedBits.xor (x y : RegIx) : Statement (.xor x y) :=
  (formatR_mask ..).trans rfl
theorem Sys2Proof.Laws.FixedBits.addReg (x y : RegIx) : Statement (.addReg x y) :=
  (formatR_mask ..).trans rfl
theorem Sys2Proof.Laws.FixedBits.sub (x y : RegIx) : Statement (.sub x y) :=
  (formatR_mask ..).trans rfl
theorem Sys2Proof.Laws.FixedBits.shr (x y : RegIx) : Statement (.shr x y) :=
  (formatR_mask ..).trans rfl
theorem Sys2Proof.Laws.FixedBits.subn (x y : RegIx) : Statement (.subn x y) :=
  (formatR_mask ..).trans rfl
theorem Sys2Proof.Laws.FixedBits.shl (x y : RegIx) : Statement (.shl x y) :=
  (formatR_mask ..).trans rfl
theorem Sys2Proof.Laws.FixedBits.sneReg (x y : RegIx) : Statement (.sneReg x y) :=
  (formatR_mask ..).trans rfl
theorem Sys2Proof.Laws.FixedBits.ldI (nnn : Addr) : Statement (.ldI nnn) :=
  (formatA_mask ..).trans rfl
theorem Sys2Proof.Laws.FixedBits.jpV0 (nnn : Addr) : Statement (.jpV0 nnn) :=
  (formatA_mask ..).trans rfl
theorem Sys2Proof.Laws.FixedBits.rnd (x : RegIx) (nn : Byte) : Statement (.rnd x nn) :=
  (formatI_classMask ..).trans rfl
theorem Sys2Proof.Laws.FixedBits.drw (x y : RegIx) (n : Nibble) : Statement (.drw x y n) :=
  (formatR_classMask ..).trans rfl
theorem Sys2Proof.Laws.FixedBits.skp (x : RegIx) : Statement (.skp x) :=
  (formatI_mask ..).trans rfl
theorem Sys2Proof.Laws.FixedBits.sknp (x : RegIx) : Statement (.sknp x) :=
  (formatI_mask ..).trans rfl
theorem Sys2Proof.Laws.FixedBits.ldVxDT (x : RegIx) : Statement (.ldVxDT x) :=
  (formatI_mask ..).trans rfl
theorem Sys2Proof.Laws.FixedBits.ldVxK (x : RegIx) : Statement (.ldVxK x) :=
  (formatI_mask ..).trans rfl
theorem Sys2Proof.Laws.FixedBits.ldDTVx (x : RegIx) : Statement (.ldDTVx x) :=
  (formatI_mask ..).trans rfl
theorem Sys2Proof.Laws.FixedBits.ldSTVx (x : RegIx) : Statement (.ldSTVx x) :=
  (formatI_mask ..).trans rfl
theorem Sys2Proof.Laws.FixedBits.addI (x : RegIx) : Statement (.addI x) :=
  (formatI_mask ..).trans rfl
theorem Sys2Proof.Laws.FixedBits.ldF (x : RegIx) : Statement (.ldF x) :=
  (formatI_mask ..).trans rfl
theorem Sys2Proof.Laws.FixedBits.ldB (x : RegIx) : Statement (.ldB x) :=
  (formatI_mask ..).trans rfl
theorem Sys2Proof.Laws.FixedBits.stRegs (x : RegIx) : Statement (.stRegs x) :=
  (formatI_mask ..).trans rfl
theorem Sys2Proof.Laws.FixedBits.ldRegs (x : RegIx) : Statement (.ldRegs x) :=
  (formatI_mask ..).trans rfl

end
end

