-- ==== Sys2Proof/Laws/Sprite.lean ====
section
/-! SUPPORT. What drawing a sprite does to every pixel, and when it collides
(41_display.md R122, R123). -/

namespace Sys2Proof.Machine

theorem Screen.at_flip (fb : Screen) (x px : Fin 64) (y py : Fin 32) :
    Screen.at (Screen.flip fb x y) px py =
      (Screen.at fb px py ^^ (decide (px = x) && decide (py = y))) := by
  unfold Screen.at Screen.flip
  simp only [Vector.getElem_set]
  by_cases hy : py = y
  · subst hy
    by_cases hx : px = x
    · subst hx; simp [Screen.at]
    · have : ¬ x.val = px.val := fun e => hx (Fin.ext e.symm)
      simp [hx, this]
  · have : ¬ y.val = py.val := fun e => hy (Fin.ext e.symm)
    simp [hy, this]

@[simp] theorem Screen.at_clear (x : Fin 64) (y : Fin 32) : Screen.at Screen.clear x y = false := by
  simp [Screen.at, Screen.clear]

/-- Two framebuffers with the same pixels are the same. -/
theorem Screen.ext_at {a b : Screen} (h : ∀ x y, Screen.at a x y = Screen.at b x y) : a = b := by
  apply Vector.ext
  intro y hy
  apply Vector.ext
  intro x hx
  exact h ⟨x, hx⟩ ⟨y, hy⟩

theorem colIx_inj (x0 : Nat) {j k : Nat} (hj : j < 64) (hk : k < 64)
    (h : colIx (x0 + j) = colIx (x0 + k)) : j = k := by
  have := congrArg Fin.val h
  simp only [colIx, Fin.val_ofNat] at this
  omega

theorem rowIx_inj (y0 : Nat) {j k : Nat} (hj : j < 32) (hk : k < 32)
    (h : rowIx (y0 + j) = rowIx (y0 + k)) : j = k := by
  have := congrArg Fin.val h
  simp only [rowIx, Fin.val_ofNat] at this
  omega

/-- One of the first `k` pixels of a sprite row at column `x0` is a 1 bit in column `px`. -/
def rowHits (x0 : Nat) (row : Byte) (px : Fin 64) (k : Nat) : Bool :=
  (List.range k).any fun j => row.getLsbD (7 - j) && decide (px = colIx (x0 + j))

theorem rowHits_succ (x0 : Nat) (row : Byte) (px : Fin 64) (k : Nat) :
    rowHits x0 row px (k + 1) =
      (rowHits x0 row px k || (row.getLsbD (7 - k) && decide (px = colIx (x0 + k)))) := by
  simp [rowHits, List.range_succ]

theorem rowHits_iff (x0 : Nat) (row : Byte) (px : Fin 64) (k : Nat) :
    rowHits x0 row px k = true ↔ ∃ j < k, row.getLsbD (7 - j) = true ∧ px = colIx (x0 + j) := by
  simp [rowHits]

/-- Column `x0 + k` is not among the first `k` columns. -/
theorem rowHits_next (x0 : Nat) (row : Byte) (k : Nat) (hk : k < 64) :
    rowHits x0 row (colIx (x0 + k)) k = false := by
  rw [Bool.eq_false_iff, Ne, rowHits_iff]
  rintro ⟨j, hj, -, h⟩
  have := colIx_inj x0 hk (by omega) h
  omega

/-- The pixels of a row after its first `k` bits are drawn. -/
theorem at_drawBits (x0 : Nat) (y : Fin 32) (row : Byte) (c : Screen × Bool) (k : Nat) (hk : k ≤ 8)
    (px : Fin 64) (py : Fin 32) :
    Screen.at (drawBits x0 y row c k).1 px py =
      (Screen.at c.1 px py ^^ (rowHits x0 row px k && decide (py = y))) := by
  induction k generalizing px py with
  | zero => simp [drawBits, rowHits]
  | succ k ih =>
    have ih := ih (by omega)
    rw [rowHits_succ, drawBits]
    by_cases hb : row.getLsbD (7 - k) = true
    · simp only [hb, if_true, plot, Screen.at_flip, ih]
      by_cases hx : px = colIx (x0 + k)
      · subst hx
        simp [rowHits_next x0 row k (by omega)]
      · simp [hx]
    · simp only [Bool.not_eq_true] at hb
      simp [hb, ih]

/-- Drawing the first `k` bits of a row collides with a set pixel under one of its 1 bits. -/
theorem collides_drawBits (x0 : Nat) (y : Fin 32) (row : Byte) (c : Screen × Bool) (k : Nat)
    (hk : k ≤ 8) :
    (drawBits x0 y row c k).2 = true ↔
      c.2 = true ∨ ∃ j < k, row.getLsbD (7 - j) = true ∧ Screen.at c.1 (colIx (x0 + j)) y = true := by
  induction k with
  | zero => simp [drawBits]
  | succ k ih =>
    have ih := ih (by omega)
    have split : (∃ j < k + 1, row.getLsbD (7 - j) = true ∧
          Screen.at c.1 (colIx (x0 + j)) y = true) ↔
        (∃ j < k, row.getLsbD (7 - j) = true ∧ Screen.at c.1 (colIx (x0 + j)) y = true) ∨
        (row.getLsbD (7 - k) = true ∧ Screen.at c.1 (colIx (x0 + k)) y = true) := by
      constructor
      · rintro ⟨j, hj, h⟩
        by_cases e : j = k
        · exact .inr (e ▸ h)
        · exact .inl ⟨j, by omega, h⟩
      · rintro (⟨j, hj, h⟩ | h)
        · exact ⟨j, by omega, h⟩
        · exact ⟨k, by omega, h⟩
    rw [split, ← or_assoc, ← ih, drawBits]
    by_cases hb : row.getLsbD (7 - k) = true
    · simp [hb, plot, at_drawBits x0 y row c k (by omega), rowHits_next x0 row k (by omega)]
    · simp [hb]

/-- One of the first `r` rows of the sprite at `I`, drawn at `(x0, y0)`, has a 1 bit on the pixel. -/
def State.spriteHits (s : State) (x0 y0 : Nat) (px : Fin 64) (py : Fin 32) (r : Nat) : Bool :=
  (List.range r).any fun q =>
    rowHits x0 (s.readByte (s.dataAddr q)) px 8 && decide (py = rowIx (y0 + q))

theorem State.spriteHits_succ (s : State) (x0 y0 : Nat) (px : Fin 64) (py : Fin 32) (r : Nat) :
    s.spriteHits x0 y0 px py (r + 1) = (s.spriteHits x0 y0 px py r ||
      (rowHits x0 (s.readByte (s.dataAddr r)) px 8 && decide (py = rowIx (y0 + r)))) := by
  simp [State.spriteHits, List.range_succ]

theorem State.spriteHits_iff (s : State) (x0 y0 : Nat) (px : Fin 64) (py : Fin 32) (r : Nat) :
    s.spriteHits x0 y0 px py r = true ↔ ∃ q < r, ∃ j < 8,
      (s.readByte (s.dataAddr q)).getLsbD (7 - j) = true ∧
      px = colIx (x0 + j) ∧ py = rowIx (y0 + q) := by
  simp only [State.spriteHits, List.any_eq_true, List.mem_range, Bool.and_eq_true, rowHits_iff,
    decide_eq_true_eq]
  constructor
  · rintro ⟨q, hq, ⟨j, hj, hb, hx⟩, hy⟩
    exact ⟨q, hq, j, hj, hb, hx, hy⟩
  · rintro ⟨q, hq, j, hj, hb, hx, hy⟩
    exact ⟨q, hq, ⟨j, hj, hb, hx⟩, hy⟩

/-- Row `y0 + r` is not among the first `r` rows. -/
theorem State.spriteHits_next (s : State) (x0 y0 : Nat) (px : Fin 64) (r : Nat) (hr : r < 32) :
    s.spriteHits x0 y0 px (rowIx (y0 + r)) r = false := by
  rw [Bool.eq_false_iff, Ne, State.spriteHits_iff]
  rintro ⟨q, hq, j, -, -, -, h⟩
  have := rowIx_inj y0 hr (by omega) h
  omega

/-- The pixels after the first `r` rows of a sprite are drawn. -/
theorem State.at_drawRows (s : State) (x0 y0 : Nat) (c : Screen × Bool) (r : Nat) (hr : r ≤ 32)
    (px : Fin 64) (py : Fin 32) :
    Screen.at (s.drawRows x0 y0 c r).1 px py =
      (Screen.at c.1 px py ^^ s.spriteHits x0 y0 px py r) := by
  induction r generalizing px py with
  | zero => simp [State.drawRows, State.spriteHits]
  | succ r ih =>
    rw [State.drawRows, at_drawBits _ _ _ _ _ (Nat.le_refl 8), ih (by omega),
      State.spriteHits_succ]
    by_cases hy : py = rowIx (y0 + r)
    · subst hy
      simp [s.spriteHits_next x0 y0 px r (by omega)]
    · simp [hy]

/-- Drawing the first `r` rows of a sprite collides with a set pixel under one of its 1 bits. -/
theorem State.collides_drawRows (s : State) (x0 y0 : Nat) (c : Screen × Bool) (r : Nat)
    (hr : r ≤ 32) :
    (s.drawRows x0 y0 c r).2 = true ↔ c.2 = true ∨
      ∃ px py, s.spriteHits x0 y0 px py r = true ∧ Screen.at c.1 px py = true := by
  induction r with
  | zero => simp [State.drawRows, State.spriteHits]
  | succ r ih =>
    rw [State.drawRows, collides_drawBits _ _ _ _ _ (Nat.le_refl 8), ih (by omega), or_assoc]
    refine or_congr_right ?_
    constructor
    · rintro (⟨px, py, h, hs⟩ | ⟨j, hj, hb, hs⟩)
      · exact ⟨px, py, by simp [State.spriteHits_succ, h], hs⟩
      · refine ⟨colIx (x0 + j), rowIx (y0 + r), ?_, ?_⟩
        · exact (s.spriteHits_iff ..).2 ⟨r, by omega, j, hj, hb, rfl, rfl⟩
        · simpa [s.at_drawRows x0 y0 c r (by omega), s.spriteHits_next x0 y0 _ r (by omega)] using hs
    · rintro ⟨px, py, h, hs⟩
      obtain ⟨q, hq, j, hj, hb, rfl, rfl⟩ := (s.spriteHits_iff ..).1 h
      by_cases e : q = r
      · subst e
        refine .inr ⟨j, hj, hb, ?_⟩
        simpa [s.at_drawRows x0 y0 c q (by omega), s.spriteHits_next x0 y0 _ q (by omega)] using hs
      · exact .inl ⟨_, _, (s.spriteHits_iff ..).2 ⟨q, by omega, j, hj, hb, rfl, rfl⟩, hs⟩

end Sys2Proof.Machine
end

