-- ==== Sys2Proof/Tests/Slice0.lean ====
section
/-! SUPPORT. Tests of the model's own work. Every expected value is copied from the spec: the
encodings of 30_encoding.md R82, R92, or a vector of 95_test_vectors.md, named in the docstring. The
witnesses at the end meet the hypotheses of the obligations of the same name. -/

namespace Sys2Proof.Tests

open Sys2Proof.Machine

/-! ### Helpers: the small states the vectors start from -/

/-- Registers set in the launch state's way, everything else as it was. -/
def regs (s : State) (l : List (RegIx × Byte)) : State := l.foldl (fun t p => t.setReg p.1 p.2) s

/-- The launch state with registers. -/
def launch (l : List (RegIx × Byte)) : State := regs .reset l

/-- A pixel set. -/
def lit (s : State) (x : Fin 64) (y : Fin 32) : State := s.setScreen (Screen.flip s.fb x y)

/-- How many pixels are set. -/
def litCount (s : State) : Nat := s.snapshot.count true

/-- One cycle (40_cycle.md R107) with the opcode `w` at `pc` answers a next state that meets `f`. -/
def after (w : Opcode) (s : State) (f : State → Bool) : Bool :=
  match (s.placeOpcode w).cycle with
  | .next t => f t
  | .fault _ => false
  | .refused _ => false

/-- One whole step answers a next state that meets `f`. -/
def stepped (s : State) (f : State → Bool) : Bool :=
  match step s with
  | .next t => f t
  | .fault _ => false
  | .refused _ => false

/-- The state a step answers, or the one it began in. -/
def next (s : State) : State :=
  match step s with
  | .next t => t
  | .fault _ => s
  | .refused _ => s

/-- The state the execute phase answers, or the one it began in. -/
def ran (i : Instr) (s : State) : State :=
  match exec i s with
  | .next t => t
  | .fault _ => s
  | .refused _ => s

/-! ### WellFormed: a term each check refuses -/

/-- R93: an assembler writes bits 11:8 of `CLS` as 0. -/
theorem test_wellFormed_cls : (Instr.cls 0).wellFormed = true ∧ (Instr.cls 0xA).wellFormed = false := by
  decide

theorem test_wellFormed_ret : (Instr.ret 0).wellFormed = true ∧ (Instr.ret 7).wellFormed = false := by
  decide

theorem test_wellFormed_shr :
    (Instr.shr 3 0).wellFormed = true ∧ (Instr.shr 3 1).wellFormed = false := by decide

theorem test_wellFormed_shl :
    (Instr.shl 3 0).wellFormed = true ∧ (Instr.shl 3 15).wellFormed = false := by decide

/-- L1, L2: 3232 bytes fit, 3233 do not. -/
theorem test_romFits :
    romFits (List.replicate 3232 0) = true ∧ romFits (List.replicate 3233 0) = false := by
  simp only [romFits, progCapacity, List.length_replicate]; decide

/-! ### Decode: one word for every constructor, bit by bit from R82 and R92 -/

theorem test_decode_cls : decodeOpcode 0b0000000011100000 = .ok (.cls 0) := by rfl
theorem test_decode_ret : decodeOpcode 0b0000000011101110 = .ok (.ret 0) := by rfl
theorem test_decode_jp : decodeOpcode 0b0001001000110100 = .ok (.jp 0x234) := by rfl
theorem test_decode_call : decodeOpcode 0b0010111011001010 = .ok (.call 0xECA) := by rfl
theorem test_decode_seImm : decodeOpcode 0b0011000110100101 = .ok (.seImm 1 0xA5) := by rfl
theorem test_decode_sneImm : decodeOpcode 0b0100001000010000 = .ok (.sneImm 2 0x10) := by rfl
theorem test_decode_seReg : decodeOpcode 0b0101001101000000 = .ok (.seReg 3 4) := by rfl
theorem test_decode_ldImm : decodeOpcode 0b0110111100010010 = .ok (.ldImm 15 0x12) := by rfl
theorem test_decode_addImm : decodeOpcode 0b0111000111111111 = .ok (.addImm 1 0xFF) := by rfl
theorem test_decode_ldReg : decodeOpcode 0b1000000100100000 = .ok (.ldReg 1 2) := by rfl
theorem test_decode_or : decodeOpcode 0b1000001101010001 = .ok (.or 3 5) := by rfl
theorem test_decode_and : decodeOpcode 0b1000001101010010 = .ok (.and 3 5) := by rfl
theorem test_decode_xor : decodeOpcode 0b1000001101010011 = .ok (.xor 3 5) := by rfl
theorem test_decode_addReg : decodeOpcode 0b1000110101110100 = .ok (.addReg 13 7) := by rfl
theorem test_decode_sub : decodeOpcode 0b1000110101110101 = .ok (.sub 13 7) := by rfl
theorem test_decode_shr : decodeOpcode 0b1000101001010110 = .ok (.shr 10 5) := by rfl
theorem test_decode_subn : decodeOpcode 0b1000110101110111 = .ok (.subn 13 7) := by rfl
theorem test_decode_shl : decodeOpcode 0b1000101001011110 = .ok (.shl 10 5) := by rfl
theorem test_decode_sneReg : decodeOpcode 0b1001001101000000 = .ok (.sneReg 3 4) := by rfl
theorem test_decode_ldI : decodeOpcode 0b1010001100000001 = .ok (.ldI 0x301) := by rfl
theorem test_decode_jpV0 : decodeOpcode 0b1011001011111111 = .ok (.jpV0 0x2FF) := by rfl
theorem test_decode_rnd : decodeOpcode 0b1100000100001111 = .ok (.rnd 1 0x0F) := by rfl
theorem test_decode_drw : decodeOpcode 0b1101000100100101 = .ok (.drw 1 2 5) := by rfl
theorem test_decode_skp : decodeOpcode 0b1110010110011110 = .ok (.skp 5) := by rfl
theorem test_decode_sknp : decodeOpcode 0b1110010110100001 = .ok (.sknp 5) := by rfl
theorem test_decode_ldVxDT : decodeOpcode 0b1111100100000111 = .ok (.ldVxDT 9) := by rfl
theorem test_decode_ldVxK : decodeOpcode 0b1111001100001010 = .ok (.ldVxK 3) := by rfl
theorem test_decode_ldDTVx : decodeOpcode 0b1111110000010101 = .ok (.ldDTVx 12) := by rfl
theorem test_decode_ldSTVx : decodeOpcode 0b1111001000011000 = .ok (.ldSTVx 2) := by rfl
theorem test_decode_addI : decodeOpcode 0b1111001000011110 = .ok (.addI 2) := by rfl
theorem test_decode_ldF : decodeOpcode 0b1111101100101001 = .ok (.ldF 11) := by rfl
theorem test_decode_ldB : decodeOpcode 0b1111010000110011 = .ok (.ldB 4) := by rfl
theorem test_decode_stRegs : decodeOpcode 0b1111000101010101 = .ok (.stRegs 1) := by rfl
theorem test_decode_ldRegs : decodeOpcode 0b1111001001100101 = .ok (.ldRegs 2) := by rfl

/-- X3 and S11: opcodes next to a legal one are illegal, by name. -/
theorem test_decode_illegal :
    decodeOpcode 0x00E1 = .error (.illegalClass0 0xE1) ∧
    decodeOpcode 0x5001 = .error (.illegalClass5 1) ∧
    decodeOpcode 0x8008 = .error (.illegalClass8 8) ∧
    decodeOpcode 0x800F = .error (.illegalClass8 0xF) ∧
    decodeOpcode 0x9001 = .error (.illegalClass9 1) ∧
    decodeOpcode 0xE09F = .error (.illegalClassE 0x9F) ∧
    decodeOpcode 0xF064 = .error (.illegalClassF 0x64) := ⟨rfl, rfl, rfl, rfl, rfl, rfl, rfl⟩

/-- R80: an instruction is two bytes, and the bytes after it are left. -/
theorem test_decode_bytes :
    decode [0x12, 0x34, 0x56] = .ok (.jp 0x234, [0x56]) ∧ decode [0x12] = .error .truncated :=
  ⟨rfl, rfl⟩

/-- The row `ADD_Vx__Vy` of opcode_table.json with `X` = 0, `Y` = 1. -/
theorem test_decodeTableWord :
    decodeTableWord 16 0x8014 = some (.addReg 0 1) ∧ decodeTableWord 16 0x0FFF = none := by decide

/-- The placed word is the one the first step after reset runs (A1). -/
theorem test_withFetchWord :
    stepped (State.reset.withFetchWord 16 0x60FE) (fun t => t.reg 0 == 0xFE && t.pc == 0x202) = true := by
  decide

/-! ### Display -/

/-- G1 -/
theorem test_cls : after 0x00E0 (lit (lit (launch [(vf, 7)]) 5 5) 63 31)
    (fun t => litCount t == 0 && t.reg vf == 7 && t.pc == 0x202) = true := by decide +kernel

/-- G2: bits 11:8 ignored. -/
theorem test_cls_ignored_bits :
    after 0x0AE0 (lit .reset 5 5) (fun t => litCount t == 0 && t.status == .ready) = true := by
  decide +kernel

/-- G5: both edges wrap. -/
theorem test_drw_wraps : after 0xD012
    (((launch [(0, 60), (1, 31)]).setIndex 0x300).writeBlock 0x300 [0xFF, 0x81])
    (fun t => t.pixel 63 31 && t.pixel 0 31 && t.pixel 3 31 && t.pixel 60 0 && t.pixel 3 0 &&
      litCount t == 10 && t.reg vf == 0) = true := by decide +kernel

/-- G9 and G11: a collision, and a coordinate taken from the old `VF`. -/
theorem test_drw_collides :
    after 0xD011 ((lit (State.reset.setIndex 0x300) 1 0).writeBlock 0x300 [0xC0])
      (fun t => t.pixel 0 0 && !t.pixel 1 0 && t.reg vf == 1) = true ∧
    after 0xDF11 (((launch [(vf, 5), (1, 3)]).setIndex 0x300).writeBlock 0x300 [0x80])
      (fun t => t.pixel 5 3 && litCount t == 1 && t.reg vf == 0) = true := by
  decide +kernel

/-! ### Control transfer -/

/-- C1 -/
theorem test_jp : after 0x1204 (State.reset.setPc 0x20A) (fun t => t.pc == 0x204) = true := by decide

/-- C6: the last entry that fits. -/
theorem test_call : after 0x2300 ((State.reset.setPc 0x204).setDepth 47)
    (fun t => t.readByte 0xEFE == 0x02 && t.readByte 0xEFF == 0x06 && t.sp == 48 &&
      t.pc == 0x300) = true := by decide

/-- C7 -/
theorem test_call_full : after 0x2300 ((State.reset.setPc 0x204).setDepth 48)
    (fun t => t.status == .halted .stackOverflow) = true := by decide

/-- C10: all 16 bits of a popped address. -/
theorem test_ret : after 0x00EE
    (((State.reset.setPc 0x210).setDepth 1).writeBlock 0xEA0 [0xFF, 0xFE])
    (fun t => t.pc == 0xFFFE && t.sp == 0 && t.status == .ready && t.readByte 0xEA0 == 0xFF) =
    true := by decide

/-- C9 -/
theorem test_ret_empty : after 0x00EE (State.reset.setPc 0x210)
    (fun t => t.status == .halted .stackUnderflow) = true := by decide

/-- C13: the sum is not masked. -/
theorem test_jpV0 : after 0xBFFF (launch [(0, 0xFF)])
    (fun t => t.pc == 0x10FE && t.status == .ready) = true := by decide

/-- C14: `V0`, not `V2`. -/
theorem test_jpV0_register : after 0xB2FF (launch [(0, 1), (2, 0x55)])
    (fun t => t.pc == 0x300) = true := by decide

/-! ### Skips -/

/-- K1, K2 -/
theorem test_seImm :
    after 0x3100 (State.reset.setPc 0x220) (fun t => t.pc == 0x224) = true ∧
    after 0x3100 ((launch [(1, 1)]).setPc 0x220) (fun t => t.pc == 0x222) = true := by decide

/-- K3, K4 -/
theorem test_sneImm :
    after 0x4210 ((launch [(2, 0x10)]).setPc 0x220) (fun t => t.pc == 0x222) = true ∧
    after 0x4211 ((launch [(2, 0x10)]).setPc 0x220) (fun t => t.pc == 0x224) = true := by decide

/-- K5, K6 -/
theorem test_seReg :
    after 0x5340 ((launch [(3, 0x7F), (4, 0x7F)]).setPc 0x220) (fun t => t.pc == 0x224) = true ∧
    after 0x5340 ((launch [(3, 0x7F), (4, 0x7E)]).setPc 0x220) (fun t => t.pc == 0x222) = true := by
  decide

/-- K8, K10 -/
theorem test_sneReg :
    after 0x9340 ((launch [(3, 1), (4, 2)]).setPc 0x220) (fun t => t.pc == 0x224) = true ∧
    after 0x9330 ((launch [(3, 9)]).setPc 0x220) (fun t => t.pc == 0x222) = true := by decide

/-! ### Loads, arithmetic and logic -/

/-- A2 -/
theorem test_ldImm : after 0x6F12 .reset (fun t => t.reg vf == 0x12) = true := by decide

/-- A3: no carry flag. -/
theorem test_addImm : after 0x7001 (launch [(0, 0xFF)])
    (fun t => t.reg 0 == 0 && t.reg vf == 0) = true := by decide

/-- A4 -/
theorem test_addImm_wraps : after 0x71FF (launch [(1, 5)]) (fun t => t.reg 1 == 4) = true := by decide

/-- A6 -/
theorem test_ldReg : after 0x8120 (launch [(2, 0x33)])
    (fun t => t.reg 1 == 0x33 && t.reg 2 == 0x33) = true := by decide

/-- A7 -/
theorem test_or : after 0x8011 (launch [(0, 0xF0), (1, 0x0F), (vf, 7)])
    (fun t => t.reg 0 == 0xFF && t.reg vf == 7) = true := by decide

/-- A8 -/
theorem test_and : after 0x8012 (launch [(0, 0xF3), (1, 0x3F), (vf, 7)])
    (fun t => t.reg 0 == 0x33 && t.reg vf == 7) = true := by decide

/-- A9 -/
theorem test_xor : after 0x8013 (launch [(0, 0xFF), (1, 0x0F), (vf, 7)])
    (fun t => t.reg 0 == 0xF0 && t.reg vf == 7) = true := by decide

/-- S2 -/
theorem test_addReg : after 0x8014 (launch [(0, 0xFF), (1, 2)])
    (fun t => t.reg 0 == 1 && t.reg vf == 1) = true := by decide

/-- A12: with `X` = `0xF` the carry remains. -/
theorem test_addReg_vf : after 0x8F14 (launch [(vf, 0xFF), (1, 2)])
    (fun t => t.reg vf == 1) = true := by decide

/-- S5 -/
theorem test_sub : after 0x8015 (launch [(0, 3), (1, 5)])
    (fun t => t.reg 0 == 0xFE && t.reg vf == 0) = true := by decide

/-- A15: with `X` = `0xF` the difference remains. -/
theorem test_sub_vf : after 0x8F15 (launch [(vf, 5), (1, 3)]) (fun t => t.reg vf == 2) = true := by
  decide

/-- S6 -/
theorem test_shr : after 0x8016 (launch [(0, 0x81), (1, 0x7E)])
    (fun t => t.reg 0 == 0x40 && t.reg vf == 1) = true := by decide

/-- A21 -/
theorem test_subn : after 0x8017 (launch [(0, 5), (1, 3)])
    (fun t => t.reg 0 == 0xFE && t.reg vf == 0) = true := by decide

/-- A22 -/
theorem test_subn_vf : after 0x8F17 (launch [(vf, 2), (1, 1)])
    (fun t => t.reg vf == 0xFF) = true := by decide

/-- S7 -/
theorem test_shl : after 0x801E (launch [(0, 0x81), (1, 0x7E)])
    (fun t => t.reg 0 == 2 && t.reg vf == 1) = true := by decide

/-- A24 -/
theorem test_shl_vf : after 0x8F0E (launch [(vf, 0x81)]) (fun t => t.reg vf == 2) = true := by decide

/-- A25: if the port answers `A7`. -/
theorem test_rnd (h : Config.randomByte 0 = 0xA7) :
    after 0xC10F .reset (fun t => t.reg 1 == 7) = true := by
  have e : after 0xC10F .reset (fun t => t.reg 1 == 7) = (Config.randomByte 0 &&& 0x0F == 7) := rfl
  rw [e, h]; rfl

/-! ### Index register and memory -/

/-- M2 -/
theorem test_ldI : after 0xAFFF .reset (fun t => t.i == 0xFFF) = true := by decide

/-- M6: wraps at 4096, `VF` unchanged. -/
theorem test_addI : after 0xF21E ((launch [(2, 0xFF), (vf, 9)]).setIndex 0xFFF)
    (fun t => t.i == 0x0FE && t.reg vf == 9) = true := by decide

/-- M8, M9 -/
theorem test_ldF :
    after 0xF029 (launch [(0, 5)]) (fun t => t.i == 0x019) = true ∧
    after 0xF029 (launch [(0, 0xF)]) (fun t => t.i == 0x04B) = true := by decide

/-- M10: the low nibble alone. -/
theorem test_ldF_low_nibble : after 0xF029 (launch [(0, 0x25)]) (fun t => t.i == 0x019) = true := by
  decide

/-- M12 -/
theorem test_ldB : after 0xF033 ((launch [(0, 0xFE)]).setIndex 0x300)
    (fun t => t.readByte 0x300 == 2 && t.readByte 0x301 == 5 && t.readByte 0x302 == 4 &&
      t.i == 0x300) = true := by decide

/-- M17: the address wraps, over a font byte. -/
theorem test_ldB_wraps : after 0xF033 ((launch [(0, 0x7B)]).setIndex 0xFFE)
    (fun t => t.readByte 0xFFE == 1 && t.readByte 0xFFF == 2 && t.readByte 0 == 3) = true := by decide

/-- M18 -/
theorem test_stRegs : after 0xF155 ((launch [(0, 0x60), (1, 0x2A), (2, 0x77)]).setIndex 0x208)
    (fun t => t.readByte 0x208 == 0x60 && t.readByte 0x209 == 0x2A && t.readByte 0x20A == 0 &&
      t.i == 0x208) = true := by decide

/-- M19 -/
theorem test_stRegs_wraps : after 0xF155 ((launch [(0, 0xAB), (1, 0xCD)]).setIndex 0xFFF)
    (fun t => t.readByte 0xFFF == 0xAB && t.readByte 0 == 0xCD) = true := by decide

/-- M21 -/
theorem test_ldRegs : after 0xF265 ((State.reset.setIndex 0x300).writeBlock 0x300 [2, 5, 4, 9])
    (fun t => t.reg 0 == 2 && t.reg 1 == 5 && t.reg 2 == 4 && t.reg 3 == 0 && t.i == 0x300) =
    true := by decide

/-- M22 -/
theorem test_ldRegs_wraps : after 0xF165 ((State.reset.setIndex 0xFFF).writeBlock 0xFFF [0x11])
    (fun t => t.reg 0 == 0x11 && t.reg 1 == 0xF0) = true := by decide

/-! ### Keypad: whatever the port answers -/

/-- E1, E2 -/
theorem test_skp (d : Bool) (h : Config.keyDown 0 0x0A = d) :
    after 0xE59E ((launch [(5, 0x0A)]).setPc 0x230)
      (fun t => t.pc == (if d then 0x234 else 0x232)) = true := by
  have e : after 0xE59E ((launch [(5, 0x0A)]).setPc 0x230)
      (fun t => t.pc == (if d then 0x234 else 0x232)) =
      ((if Config.keyDown 0 0x0A then (0x234 : PcWord) else 0x232) ==
        (if d then 0x234 else 0x232)) := rfl
  rw [e, h]; exact beq_self_eq_true _

/-- E3, E4 -/
theorem test_sknp (d : Bool) (h : Config.keyDown 0 0x0A = d) :
    after 0xE5A1 ((launch [(5, 0x0A)]).setPc 0x230)
      (fun t => t.pc == (if d then 0x232 else 0x234)) = true := by
  have e : after 0xE5A1 ((launch [(5, 0x0A)]).setPc 0x230)
      (fun t => t.pc == (if d then 0x232 else 0x234)) =
      ((if !Config.keyDown 0 0x0A then (0x234 : PcWord) else 0x232) ==
        (if d then 0x232 else 0x234)) := rfl
  rw [e, h]; cases d <;> decide

/-- E6: the delivered key is stored whole, and no timer counts. -/
theorem test_ldVxK (h : Config.waitKey 0 = 0xC8) :
    after 0xF30A (State.reset.setDelay 9) (fun t => t.reg 3 == 0xC8 && t.dt == 9) = true := by
  have e : after 0xF30A (State.reset.setDelay 9) (fun t => t.reg 3 == 0xC8 && t.dt == 9) =
      (Config.waitKey 0 == 0xC8 && (9 : Byte) == 9) := rfl
  rw [e, h]; rfl

/-- A core whose key-wait port never delivers a key to the next request. -/
def noKey (s : State) : State := { s with noKeyAt := some s.draws }

/-- R189, R190, U15: without a key the instruction never completes. -/
theorem test_ldVxK_stuck :
    step (noKey (State.reset.placeOpcode 0xF30A)) = .fault .noKey ∧
    (noKey (State.reset.placeOpcode 0xF30A)).serve .cycle = none := ⟨rfl, rfl⟩

/-! ### Timers -/

/-- T1 -/
theorem test_ldVxDT : after 0xF107 (State.reset.setDelay 3)
    (fun t => t.reg 1 == 3 && t.dt == 3) = true := by decide

/-- T2 -/
theorem test_ldDTVx : after 0xF015 (launch [(0, 0x3C)])
    (fun t => t.dt == 0x3C && t.st == 0) = true := by decide

/-- T3 -/
theorem test_ldSTVx : after 0xF218 (launch [(2, 5)]) (fun t => t.st == 5 && t.dt == 0) = true := by
  decide

/-- T4 -/
theorem test_tick : (State.reset.setDelay 2).timerTick.dt = 1 ∧
    (State.reset.setDelay 2).timerTick.timerTick.timerTick.dt = 0 ∧
    (State.reset.setDelay 2).timerTick.st = 0 := by decide

/-- T5, T6 -/
theorem test_tick_edges :
    ((State.reset.setDelay 0xFF).setSound 1).timerTick.dt = 0xFE ∧
    ((State.reset.setDelay 0xFF).setSound 1).timerTick.st = 0 ∧
    ((State.reset.setDelay 5).raiseHalt .stackOverflow).timerTick.dt = 5 := by decide

/-! ### The cycle and its halts -/

/-- Q2 to Q4: the last addresses an instruction is fetched from, and `pc` past them. -/
theorem test_range_end :
    after 0x6000 (State.reset.setPc 0xE9F) (fun t => t.status == .ready) = true ∧
    after 0x3000 (State.reset.setPc 0xE9E) (fun t => t.pc == 0xEA2 && t.status == .ready) = true ∧
    after 0x6000 (State.reset.setPc 0xEA0) (fun t => t.status == .halted .pcOutOfBounds) = true := by
  decide

/-- Q5 -/
theorem test_range_start :
    after 0x6000 (State.reset.setPc 0x1FE) (fun t => t.status == .halted .pcOutOfBounds) = true ∧
    after 0x6000 (State.reset.setPc 0x1FF) (fun t => t.status == .halted .pcOutOfBounds) = true := by
  decide

/-- Q7: an odd address is fetched normally. -/
theorem test_odd_fetch : after 0x60AB (State.reset.setPc 0x301)
    (fun t => t.reg 0 == 0xAB && t.pc == 0x303) = true := by decide

/-- X2, K12 -/
theorem test_illegal :
    after 0x0FFF .reset (fun t => t.status == .halted .invalidOpcode) = true ∧
    after 0x5341 .reset (fun t => t.status == .halted .invalidOpcode) = true := by decide

/-- R205: the numbers of the causes. -/
theorem test_codes : Status.code .ready = 0 ∧ HaltCause.code .invalidOpcode = 1 ∧
    HaltCause.code .stackOverflow = 2 ∧ HaltCause.code .stackUnderflow = 3 ∧
    HaltCause.code .pcOutOfBounds = 4 := by decide

/-! ### Reset and load -/

/-- L4: a load leaves a halted core halted. -/
theorem test_load_halted :
    ((State.reset.raiseHalt .invalidOpcode).load [0x12, 0x00]).map
      (fun t => (t.status, t.pc, t.readByte 0x200)) =
    some (.halted .invalidOpcode, 0x200, 0x12) := by decide

/-- L2: refused, nothing changed. -/
theorem test_load_too_large : State.reset.load (List.replicate 3233 0) = none := by
  simp only [State.load, romFits, progCapacity, List.length_replicate]; decide

/-- L5: the font is back, the program is gone. -/
theorem test_reset :
    ((State.reset.setIndex 7).writeBlock 0 [1, 2, 3]).hostReset.readByte 0 = 0xF0 ∧
    ((State.reset.setIndex 7).writeBlock 0x200 [1, 2, 3]).hostReset.readByte 0x201 = 0 ∧
    ((State.reset.setIndex 7).raiseHalt .invalidOpcode).hostReset.status = .ready := by decide

/-! ### Witnesses: the hypotheses of each obligation can be met -/

theorem witness_EncodeOfDecode : decodeOpcode 0x0AE0 = .ok (.cls 0xA) := by rfl

theorem witness_DecoderFollowsOpcodeMap :
    decodeOpcode 0x8014 = .ok (.addReg 0 1) ∧ (rowOf (.addReg 0 0)) ∈ opcodeMap ∧
    (rowOf (.addReg 0 0)).covers 0x8014 = true ∧ Opcode.illegal 0x8008 = true ∧
    Opcode.illegal 0x8014 = false := ⟨rfl, by decide, by decide, by decide, by decide⟩

/-- One opcode for each clause, and one beside each clause. -/
theorem witness_IllegalOpcodesAreExact :
    (∃ e, decodeOpcode 0x0FFF = .error e) ∧ (∃ e, decodeOpcode 0x5341 = .error e) ∧
    (∃ e, decodeOpcode 0x934F = .error e) ∧ (∃ e, decodeOpcode 0x800D = .error e) ∧
    (∃ e, decodeOpcode 0xE0A2 = .error e) ∧ (∃ e, decodeOpcode 0xF066 = .error e) ∧
    decodeOpcode 0x800E = .ok (.shl 0 0) :=
  ⟨⟨_, rfl⟩, ⟨_, rfl⟩, ⟨_, rfl⟩, ⟨_, rfl⟩, ⟨_, rfl⟩, ⟨_, rfl⟩, rfl⟩

/-- The state the witnesses of the cycle use: `8014` at `pc`. -/
def atPc (p : PcWord) (w : Opcode) : State := (State.reset.setPc p).placeOpcode w

/-- At both ends of the program area. -/
theorem witness_StepRunsDecodedInstruction :
    ((atPc 0x200 0x8014).status = .ready ∧ 0x200 ≤ (atPc 0x200 0x8014).pc.toNat ∧
      (atPc 0x200 0x8014).pc.toNat ≤ 0xE9F ∧
      decode [(atPc 0x200 0x8014).readByte 0x200, (atPc 0x200 0x8014).readByte 0x201] =
        .ok (.addReg 0 1, [])) ∧
    ((atPc 0xE9F 0x8014).status = .ready ∧ 0x200 ≤ (atPc 0xE9F 0x8014).pc.toNat ∧
      (atPc 0xE9F 0x8014).pc.toNat ≤ 0xE9F ∧
      decode [(atPc 0xE9F 0x8014).readByte 0xE9F, (atPc 0xE9F 0x8014).readByte 0xEA0] =
        .ok (.addReg 0 1, [])) :=
  ⟨⟨rfl, by decide, by decide, rfl⟩, ⟨rfl, by decide, by decide, rfl⟩⟩

/-- Ready states for every branch of `State.statusAfterCycle`, at its boundaries. -/
theorem witness_CycleHaltsExactlyWhen :
    (atPc 0x1FF 0x8014).statusAfterCycle = .halted .pcOutOfBounds ∧
    (atPc 0x200 0x8014).statusAfterCycle = .ready ∧
    (atPc 0xE9F 0x8014).statusAfterCycle = .ready ∧
    (atPc 0xEA0 0x8014).statusAfterCycle = .halted .pcOutOfBounds ∧
    (atPc 0x200 0x8008).statusAfterCycle = .halted .invalidOpcode ∧
    ((atPc 0x200 0x2300).setDepth 47).statusAfterCycle = .ready ∧
    ((atPc 0x200 0x2300).setDepth 48).statusAfterCycle = .halted .stackOverflow ∧
    ((atPc 0x200 0x00EE).setDepth 1).statusAfterCycle = .ready ∧
    ((atPc 0x200 0x00EE).setDepth 0).statusAfterCycle = .halted .stackUnderflow ∧
    (atPc 0xEA0 0x8014).status = .ready := by decide

/-- Both sides of the stall, at both ends of the program area: a core that waits for ever, one that
waits for a key that comes, and one with `FX0A` just outside the program area. -/
theorem witness_Stalls :
    (noKey (atPc 0x200 0xF30A)).Stalls ∧ (noKey (atPc 0xE9F 0xF30A)).Stalls ∧
    ¬ (atPc 0x200 0xF30A).Stalls ∧ ¬ (noKey (atPc 0xEA0 0xF30A)).Stalls ∧
    (noKey (atPc 0x200 0xF30A)).status = .ready := by
  refine ⟨⟨by decide, by decide, rfl, 3, rfl⟩, ⟨by decide, by decide, rfl, 3, rfl⟩, ?_, ?_, rfl⟩
  · rintro ⟨-, -, h, -⟩; cases h
  · rintro ⟨-, h, -⟩; exact absurd h (by decide)

/-- A key that comes, and one that does not. -/
theorem witness_EveryInstructionAnswers :
    State.reset.noKeyAt ≠ some State.reset.draws ∧
    (noKey .reset).noKeyAt = some (noKey .reset).draws := by decide

theorem witness_StalledCycleNeverReturns :
    (noKey (atPc 0x200 0xF30A)).status = .ready ∧ (noKey (atPc 0x200 0xF30A)).Stalls ∧
    Request.timerTick ≠ .cycle :=
  ⟨rfl, witness_Stalls.1, by decide⟩

theorem witness_WaitKeyStoresDeliveredKey :
    State.reset.noKeyAt ≠ some State.reset.draws ∧
    exec (.ldVxK 3) .reset = .next (ran (.ldVxK 3) .reset) ∧
    (noKey .reset).noKeyAt = some (noKey .reset).draws := ⟨by decide, rfl, rfl⟩

theorem witness_HaltedIsTerminal :
    (State.reset.raiseHalt .stackUnderflow).status = .halted .stackUnderflow := by decide

/-- A taken skip, a call and a return that complete. -/
theorem witness_PcAfterCompletedCycle :
    (step (atPc 0x200 0x3000) = .next (next (atPc 0x200 0x3000)) ∧
      (next (atPc 0x200 0x3000)).status = .ready ∧ (next (atPc 0x200 0x3000)).pc = 0x204) ∧
    (step ((atPc 0x210 0x00EE).setDepth 1) = .next (next ((atPc 0x210 0x00EE).setDepth 1)) ∧
      (next ((atPc 0x210 0x00EE).setDepth 1)).status = .ready) :=
  ⟨⟨rfl, rfl, rfl⟩, ⟨rfl, rfl⟩⟩

theorem witness_EveryInstructionFrame :
    exec (.stRegs 1) ((launch [(1, 7)]).setIndex 0x300) =
      .next (ran (.stRegs 1) ((launch [(1, 7)]).setIndex 0x300)) ∧
    (ran (.stRegs 1) ((launch [(1, 7)]).setIndex 0x300)).status = .ready ∧
    (0x301 % memSize) ∈ memWritten ((launch [(1, 7)]).setIndex 0x300) (.stRegs 1) ∧
    (0x302 % memSize) ∉ memWritten ((launch [(1, 7)]).setIndex 0x300) (.stRegs 1) :=
  ⟨rfl, rfl, by decide, by decide⟩

theorem witness_FlagIsZeroOrOne :
    flagWriter (.sub 0 vf) = true ∧ regsWritten (.sub 0 vf) ≠ [vf, vf] ∧
    exec (.sub 0 vf) (launch [(0, 3)]) = .next (ran (.sub 0 vf) (launch [(0, 3)])) :=
  ⟨rfl, by decide, rfl⟩

theorem witness_SoundTimerIsNeverRead :
    exec (.ldVxDT 3) (State.reset.setSound 5) = .next (ran (.ldVxDT 3) (State.reset.setSound 5)) ∧
    (ran (.ldVxDT 3) (State.reset.setSound 5)).status = .ready := ⟨rfl, rfl⟩

/-- A state that is not the reset state: bytes listed in memory, the stack full. -/
theorem witness_StepKeepsInv :
    ((atPc 0x200 0x00EE).setDepth 48).Inv ∧
    step ((atPc 0x200 0x00EE).setDepth 48) = .next (next ((atPc 0x200 0x00EE).setDepth 48)) :=
  ⟨⟨by decide, by decide⟩, rfl⟩

theorem witness_RequestsKeepInv : ((atPc 0xE9F 0x8014).setDepth 48).Inv ∧
    ((atPc 0xE9F 0x8014).setDepth 48).serveAll [.timerTick, .readStatus] =
      some ((atPc 0xE9F 0x8014).setDepth 48).timerTick := ⟨⟨by decide, by decide⟩, rfl⟩

/-- The sprite `C0` at (0, 0): a covered pixel that is set, and one that is not covered. -/
theorem witness_DrwInvertsCoveredPixels :
    State.SpriteCovers ((lit (State.reset.setIndex 0x300) 1 0).writeBlock 0x300 [0xC0]) 0 0 1 1 0 ∧
    State.pixel ((lit (State.reset.setIndex 0x300) 1 0).writeBlock 0x300 [0xC0]) 1 0 = true ∧
    ¬ State.SpriteCovers ((lit (State.reset.setIndex 0x300) 1 0).writeBlock 0x300 [0xC0]) 0 0 1 2 0 ∧
    ∀ px py, ¬ State.SpriteCovers State.reset 0 0 0 px py := by
  refine ⟨⟨0, by decide, 1, by decide, by decide, by decide, by decide⟩, by decide, ?_, ?_⟩
  · unfold State.SpriteCovers; decide
  · rintro px py ⟨r, hr, _⟩; exact absurd hr (Nat.not_lt_zero r)

/-- A clear screen: the sprite's pixels are all unset, and the first draw sets one. -/
theorem witness_DrawingTwiceRestores :
    (0 : RegIx) ≠ vf ∧ (1 : RegIx) ≠ vf ∧ State.reset.pixel 0 0 = false ∧
    (ran (.drw 0 1 5) State.reset).pixel 0 0 = true ∧
    (ran (.drw 0 1 5) (ran (.drw 0 1 5) State.reset)).reg vf = 1 := by decide

/-- A depth of 1, of 48 and of 0. -/
theorem witness_RetPops :
    (State.reset.setDepth 1).sp ≠ 0 ∧ (State.reset.setDepth 48).sp ≠ 0 ∧ State.reset.sp = 0 := by
  decide

/-- A depth of 0, of 47 and of 48. -/
theorem witness_CallPushesAndJumps :
    State.reset.sp < 48 ∧ (State.reset.setDepth 47).sp < 48 ∧ (State.reset.setDepth 48).sp = 48 := by
  decide

/-- The state the call leaves is itself such a later state. -/
theorem witness_CallThenReturnComesBack :
    (State.reset.setDepth 47).sp < 48 ∧
    exec (.call 0x300) (State.reset.setDepth 47) =
      .next (ran (.call 0x300) (State.reset.setDepth 47)) ∧
    (ran (.ret 0) (ran (.call 0x300) (State.reset.setDepth 47))).pc = 0x200 :=
  ⟨by decide, rfl, by decide⟩

/-- `X` other than `0xF`, in the clauses that ask for it. -/
theorem witness_AddRegSumAndCarry : (14 : RegIx) ≠ vf := by decide
theorem witness_SubFlagAndDifference : (0 : RegIx) ≠ vf := by decide
theorem witness_ShiftFlagAndResult : (1 : RegIx) ≠ vf := by decide

/-- The first and the last register of a block, and the ones above it. -/
theorem witness_StRegsStoresRange :
    (0 : RegIx).val ≤ (0 : RegIx).val ∧ (15 : RegIx).val ≤ (15 : RegIx).val := by decide
theorem witness_LdRegsLoadsRange :
    (2 : RegIx).val ≤ (2 : RegIx).val ∧ (2 : RegIx).val < (3 : RegIx).val := by decide

/-- The state the store leaves is itself such a later state; the block wraps over the last address. -/
theorem witness_StoreThenLoadRestores :
    exec (.stRegs 1) ((launch [(0, 0xAB), (1, 0xCD)]).setIndex 0xFFF) =
      .next (ran (.stRegs 1) ((launch [(0, 0xAB), (1, 0xCD)]).setIndex 0xFFF)) ∧
    (ran (.stRegs 1) ((launch [(0, 0xAB), (1, 0xCD)]).setIndex 0xFFF)).i = 0xFFF := ⟨rfl, rfl⟩

theorem witness_StoreIsSeenByFetch :
    ((launch [(0, 0x60)]).setIndex 0x200).i.toNat = ((launch [(0, 0x60)]).setIndex 0x200).pc.toNat ∧
    (1 : RegIx) ≠ 0 ∧
    (ran (.stRegs 1) ((launch [(0, 0x60)]).setIndex 0x200)).fetch = 0x6000 := by decide

theorem witness_TimerTickCountsDown :
    (State.reset.setDelay 2).status = .ready ∧
    ((State.reset.setDelay 5).raiseHalt .stackOverflow).status = .halted .stackOverflow := by decide

theorem witness_ResetValues :
    State.draws (atPc 0x300 0x8014) = 0 ∧ State.cycles (atPc 0x300 0x8014) = 0 ∧
    State.noKeyAt (atPc 0x300 0x8014) = none := by decide

/-- A ROM of the longest length and one byte more. -/
theorem witness_LoadCopiesOrRefuses :
    (List.replicate 3232 (0 : Byte)).length ≤ 3232 ∧
    3232 < (List.replicate 3233 (0 : Byte)).length := by
  simp only [List.length_replicate]; decide

/-- C4: `1200` at `200`, with a timer that still counts. -/
theorem witness_FinishedStaysFinished :
    ((atPc 0x200 0x1200).setDelay 7).Finished := ⟨by decide, by decide, by decide⟩

end Sys2Proof.Tests
end

section
/-! The conditional skips (43_skip.md): how the decoder reads classes 3, 4, 5 and 9, what a skip does
to `pc` and what it leaves, and the two obligations assembled from that. -/

namespace Sys2Proof

/-! ### The classes of the skips (30_encoding.md R84, R89) -/

theorem decodeOpcode_class3 {w : Opcode} (h : w.c = 0x3) :
    decodeOpcode w = .ok (.seImm (regOfNibble w.x) w.nn) := by
  simp [decodeOpcode, h]

theorem decodeOpcode_class4 {w : Opcode} (h : w.c = 0x4) :
    decodeOpcode w = .ok (.sneImm (regOfNibble w.x) w.nn) := by
  simp [decodeOpcode, h]

theorem decodeOpcode_class5 {w : Opcode} (h : w.c = 0x5) :
    decodeOpcode w = decodeClass5 w := by
  simp [decodeOpcode, h]

theorem decodeOpcode_class9 {w : Opcode} (h : w.c = 0x9) :
    decodeOpcode w = decodeClass9 w := by
  simp [decodeOpcode, h]

theorem decodeClass5_formatR (c x y n : Nibble) :
    decodeClass5 (formatR c x y n) = if n = 0 then .ok (.seReg (regOfNibble x) (regOfNibble y))
      else .error (.illegalClass5 n) := by
  simp [decodeClass5]

theorem decodeClass9_formatR (c x y n : Nibble) :
    decodeClass9 (formatR c x y n) = if n = 0 then .ok (.sneReg (regOfNibble x) (regOfNibble y))
      else .error (.illegalClass9 n) := by
  simp [decodeClass9]

end Sys2Proof

namespace Sys2Proof.Machine

/-! ### The meaning of each skip (43_skip.md R141 to R144) -/

theorem exec_seImm (x : RegIx) (nn : Byte) (s : State) :
    exec (.seImm x nn) s = .next (s.skipIf (s.reg x == nn)) := rfl

theorem exec_sneImm (x : RegIx) (nn : Byte) (s : State) :
    exec (.sneImm x nn) s = .next (s.skipIf (s.reg x != nn)) := rfl

theorem exec_seReg (x y : RegIx) (s : State) :
    exec (.seReg x y) s = .next (s.skipIf (s.reg x == s.reg y)) := rfl

theorem exec_sneReg (x y : RegIx) (s : State) :
    exec (.sneReg x y) s = .next (s.skipIf (s.reg x != s.reg y)) := rfl

/-! ### What a skip does and leaves (43_skip.md R140) -/

/-- A skip, taken or not, changes `pc` alone. -/
theorem frame_skipIf (s : State) (taken : Bool) : Frame [] [] [.pc] s (s.skipIf taken) := by
  refine ⟨fun r _ => s.reg_skipIf taken r, fun a _ => s.readByte_skipIf taken a, fun p hp => ?_⟩
  cases p with
  | pc => simp at hp
  | _ => rfl

theorem skipIf_beq_pc (s : State) (a b : Byte) :
    (s.skipIf (a == b)).pc = if a.toNat = b.toNat then s.pc + 2 else s.pc := by
  simp [instrBytes, BitVec.toNat_inj]

theorem skipIf_bne_pc (s : State) (a b : Byte) :
    (s.skipIf (a != b)).pc = if a.toNat = b.toNat then s.pc else s.pc + 2 := by
  simp [instrBytes, BitVec.toNat_inj]

/-- An instruction whose meaning is a skip completes, with the skip's `pc` and nothing else changed. -/
theorem answers_of_exec_eq_skipIf {i : Instr} {s : State} {taken : Bool} {p : PcWord}
    (hexec : exec i s = .next (s.skipIf taken)) (hpc : (s.skipIf taken).pc = p) :
    Answers i s fun t => t.pc = p ∧ Frame [] [] [.pc] s t :=
  ⟨s.skipIf taken, hexec, hpc, frame_skipIf s taken⟩

/-! ### The obligations -/

/-- Settles O26: classes 5 and 9 are told apart by the low nibble, and each instruction's meaning is
one skip on the comparison of the two registers. -/
theorem skipOnRegister : Obligations.SkipOnRegister := by
  refine ⟨fun x y n => ⟨?_, ?_⟩, fun x y s => ⟨?_, ?_⟩⟩
  · rw [decodeOpcode_class5 (formatR_c ..), decodeClass5_formatR]
  · rw [decodeOpcode_class9 (formatR_c ..), decodeClass9_formatR]
  · exact answers_of_exec_eq_skipIf (exec_seReg x y s) (skipIf_beq_pc s _ _)
  · exact answers_of_exec_eq_skipIf (exec_sneReg x y s) (skipIf_bne_pc s _ _)

/-- Settles O25: classes 3 and 4 are read whole, and each instruction's meaning is one skip on the
comparison of the register with the immediate. -/
theorem skipOnImmediate : Obligations.SkipOnImmediate := by
  refine ⟨fun x nn => ⟨?_, ?_⟩, fun x nn s => ⟨?_, ?_⟩⟩
  · rw [decodeOpcode_class3 (formatI_c ..), formatI_x, formatI_nn]
  · rw [decodeOpcode_class4 (formatI_c ..), formatI_x, formatI_nn]
  · exact answers_of_exec_eq_skipIf (exec_seImm x nn s) (skipIf_beq_pc s _ _)
  · exact answers_of_exec_eq_skipIf (exec_sneImm x nn s) (skipIf_bne_pc s _ _)

end Sys2Proof.Machine
end

section
/-! The loads, the immediate addition and the three logic operations (44_load_alu.md R151 to R156):
how the decoder reads classes 6, 7 and 8 for them, what the write of one register does and leaves, and
the four obligations assembled from that. -/

namespace Sys2Proof

/-! ### The classes of the loads and the logic operations (30_encoding.md R84, R86) -/

theorem decodeOpcode_class6 {w : Opcode} (h : w.c = 0x6) :
    decodeOpcode w = .ok (.ldImm (regOfNibble w.x) w.nn) := by
  simp [decodeOpcode, h]

theorem decodeOpcode_class7 {w : Opcode} (h : w.c = 0x7) :
    decodeOpcode w = .ok (.addImm (regOfNibble w.x) w.nn) := by
  simp [decodeOpcode, h]

theorem decodeOpcode_class8 {w : Opcode} (h : w.c = 0x8) :
    decodeOpcode w = decodeClass8 w := by
  simp [decodeOpcode, h]

theorem decodeClass8_ldReg (c x y : Nibble) :
    decodeClass8 (formatR c x y 0x0) = .ok (.ldReg (regOfNibble x) (regOfNibble y)) := by
  simp [decodeClass8]

theorem decodeClass8_or (c x y : Nibble) :
    decodeClass8 (formatR c x y 0x1) = .ok (.or (regOfNibble x) (regOfNibble y)) := by
  simp [decodeClass8]

theorem decodeClass8_and (c x y : Nibble) :
    decodeClass8 (formatR c x y 0x2) = .ok (.and (regOfNibble x) (regOfNibble y)) := by
  simp [decodeClass8]

theorem decodeClass8_xor (c x y : Nibble) :
    decodeClass8 (formatR c x y 0x3) = .ok (.xor (regOfNibble x) (regOfNibble y)) := by
  simp [decodeClass8]

end Sys2Proof

namespace Sys2Proof.Machine

/-! ### The meaning of each instruction (44_load_alu.md R151 to R156) -/

theorem exec_ldImm (x : RegIx) (nn : Byte) (s : State) :
    exec (.ldImm x nn) s = .next (s.setReg x nn) := rfl

theorem exec_addImm (x : RegIx) (nn : Byte) (s : State) :
    exec (.addImm x nn) s = .next (s.setReg x (s.reg x + nn)) := rfl

theorem exec_ldReg (x y : RegIx) (s : State) :
    exec (.ldReg x y) s = .next (s.setReg x (s.reg y)) := rfl

theorem exec_or (x y : RegIx) (s : State) :
    exec (.or x y) s = .next (s.setReg x (s.reg x ||| s.reg y)) := rfl

theorem exec_and (x y : RegIx) (s : State) :
    exec (.and x y) s = .next (s.setReg x (s.reg x &&& s.reg y)) := rfl

theorem exec_xor (x y : RegIx) (s : State) :
    exec (.xor x y) s = .next (s.setReg x (s.reg x ^^^ s.reg y)) := rfl

/-! ### What the write of one register does and leaves -/

/-- The write of a register changes that register alone; `VF` only where it is that register. -/
theorem frame_setReg (s : State) (x : RegIx) (b : Byte) : Frame [x] [] [] s (s.setReg x b) := by
  refine ⟨fun r hr => ?_, fun a _ => s.readByte_setReg x b a, fun p _ => ?_⟩
  · exact s.reg_setReg_ne x r b (by simpa using hr)
  · cases p <;> rfl

/-- An instruction that completes with `P` completes with whatever `P` implies. -/
theorem Answers.imp {i : Instr} {s : State} {P Q : State → Prop} (h : Answers i s P)
    (hPQ : ∀ t, P t → Q t) : Answers i s Q := by
  obtain ⟨t, hexec, hP⟩ := h
  exact ⟨t, hexec, hPQ t hP⟩

/-- An instruction whose meaning is the write of one register completes, with the byte written there
and nothing else changed. -/
theorem answers_of_exec_eq_setReg {i : Instr} {s : State} {x : RegIx} {b : Byte}
    (hexec : exec i s = .next (s.setReg x b)) :
    Answers i s fun t => t.reg x = b ∧ Frame [x] [] [] s t :=
  ⟨s.setReg x b, hexec, s.reg_setReg_self x b, frame_setReg s x b⟩

/-! ### The obligations -/

/-- Settles O28: class 7 is read whole, and the meaning writes the 8-bit sum, which is the sum modulo
256, to `V[X]` alone. -/
theorem addImmWraps : Obligations.AddImmWraps := by
  refine ⟨fun x nn => ?_, fun x nn s => ?_⟩
  · rw [decodeOpcode_class7 (formatI_c ..), formatI_x, formatI_nn]
  · refine (answers_of_exec_eq_setReg (exec_addImm x nn s)).imp fun t ⟨hreg, hframe⟩ => ⟨?_, hframe⟩
    rw [hreg, BitVec.toNat_add]

/-- Settles O30: class 8 tells the three apart by the low nibble, and each meaning writes one bitwise
operation on the two registers to `V[X]` alone. -/
theorem logicIsBitwise : Obligations.LogicIsBitwise := by
  refine ⟨fun x y => ⟨?_, ?_, ?_⟩, fun x y s => ⟨?_, ?_, ?_⟩⟩
  · rw [decodeOpcode_class8 (formatR_c ..), decodeClass8_or]
  · rw [decodeOpcode_class8 (formatR_c ..), decodeClass8_and]
  · rw [decodeOpcode_class8 (formatR_c ..), decodeClass8_xor]
  · refine (answers_of_exec_eq_setReg (exec_or x y s)).imp fun t ⟨hreg, hframe⟩ =>
      ⟨hframe, fun k _ => ?_⟩
    rw [hreg, BitVec.getLsbD_or]
  · refine (answers_of_exec_eq_setReg (exec_and x y s)).imp fun t ⟨hreg, hframe⟩ =>
      ⟨hframe, fun k _ => ?_⟩
    rw [hreg, BitVec.getLsbD_and]
  · refine (answers_of_exec_eq_setReg (exec_xor x y s)).imp fun t ⟨hreg, hframe⟩ =>
      ⟨hframe, fun k _ => ?_⟩
    rw [hreg, BitVec.getLsbD_xor]

/-- Settles O27: class 6 is read whole, and the meaning writes the immediate to `V[X]` alone. -/
theorem ldImmLoads : Obligations.LdImmLoads := by
  refine ⟨fun x nn => ?_, fun x nn s => ?_⟩
  · rw [decodeOpcode_class6 (formatI_c ..), formatI_x, formatI_nn]
  · exact answers_of_exec_eq_setReg (exec_ldImm x nn s)

/-- Settles O29: low nibble 0 of class 8 is the move, and the meaning writes `V[Y]` to `V[X]`
alone. -/
theorem ldRegMoves : Obligations.LdRegMoves := by
  refine ⟨fun x y => ?_, fun x y s => ?_⟩
  · rw [decodeOpcode_class8 (formatR_c ..), decodeClass8_ldReg]
  · exact answers_of_exec_eq_setReg (exec_ldReg x y s)

end Sys2Proof.Machine
end

section
/-! The load of the index register and the addition to it (45_index_memory.md R171, R172): how the
decoder reads class A and low byte `0x1E` of class F, what the write of `I` does and leaves, and the
two obligations assembled from that. -/

namespace Sys2Proof

/-! ### The classes of the two instructions (30_encoding.md R84, R88) -/

theorem decodeOpcode_classA {w : Opcode} (h : w.c = 0xA) :
    decodeOpcode w = .ok (.ldI w.nnn) := by
  simp [decodeOpcode, h]

theorem decodeOpcode_classF {w : Opcode} (h : w.c = 0xF) :
    decodeOpcode w = decodeClassF w := by
  simp [decodeOpcode, h]

theorem decodeClassF_addI (c x : Nibble) :
    decodeClassF (formatI c x 0x1E) = .ok (.addI (regOfNibble x)) := by
  simp [decodeClassF]

end Sys2Proof

namespace Sys2Proof.Machine

/-! ### The meaning of the two instructions (45_index_memory.md R171, R172) -/

theorem exec_ldI (nnn : Addr) (s : State) : exec (.ldI nnn) s = .next (s.setIndex nnn) := rfl

theorem exec_addI (x : RegIx) (s : State) :
    exec (.addI x) s = .next (s.setIndex (indexSum s.i (s.reg x))) := rfl

/-! ### What the write of the index register does and leaves -/

/-- The write of `I` changes no register, `VF` included, no byte of memory, and no other part. -/
theorem frame_setIndex (s : State) (a : Addr) : Frame [] [] [.index] s (s.setIndex a) := by
  refine ⟨fun r _ => s.reg_setIndex a r, fun b _ => s.readByte_setIndex a b, fun p hp => ?_⟩
  cases p with
  | index => simp at hp
  | _ => rfl

/-- An instruction whose meaning is the write of `I` completes, with the address written there and
nothing else changed. -/
theorem answers_of_exec_eq_setIndex {i : Instr} {s : State} {a : Addr}
    (hexec : exec i s = .next (s.setIndex a)) :
    Answers i s fun t => t.i = a ∧ Frame [] [] [.index] s t :=
  ⟨s.setIndex a, hexec, s.setIndex_i a, frame_setIndex s a⟩

/-! ### The obligations -/

/-- Settles O36: low byte `0x1E` of class F is the addition, and the meaning writes the 12-bit sum,
which is the sum modulo 4096, to `I` alone. -/
theorem addIWraps : Obligations.AddIWraps := by
  refine ⟨fun x => ?_, fun x s => ?_⟩
  · rw [decodeOpcode_classF (formatI_c ..), decodeClassF_addI]
  · refine (answers_of_exec_eq_setIndex (exec_addI x s)).imp fun t ⟨hindex, hframe⟩ => ⟨?_, hframe⟩
    rw [hindex, indexSum_toNat, memSize]

/-- Settles O35: class A is read whole, and the meaning writes the address to `I` alone. -/
theorem ldISetsIndex : Obligations.LdISetsIndex := by
  refine ⟨fun nnn => ?_, fun nnn s => ?_⟩
  · rw [decodeOpcode_classA (formatA_c ..), formatA_nnn]
  · exact answers_of_exec_eq_setIndex (exec_ldI nnn s)

end Sys2Proof.Machine
end

section
/-! The read of the delay timer and the writes of the two timers (47_timers.md R194 to R196): how the
decoder reads low bytes `0x07`, `0x15` and `0x18` of class F, what the write of a timer does and
leaves, and the two obligations assembled from that. -/

namespace Sys2Proof

/-! ### The low bytes of class F (30_encoding.md R88) -/

theorem decodeClassF_ldVxDT (c x : Nibble) :
    decodeClassF (formatI c x 0x07) = .ok (.ldVxDT (regOfNibble x)) := by
  simp [decodeClassF]

theorem decodeClassF_ldDTVx (c x : Nibble) :
    decodeClassF (formatI c x 0x15) = .ok (.ldDTVx (regOfNibble x)) := by
  simp [decodeClassF]

theorem decodeClassF_ldSTVx (c x : Nibble) :
    decodeClassF (formatI c x 0x18) = .ok (.ldSTVx (regOfNibble x)) := by
  simp [decodeClassF]

end Sys2Proof

namespace Sys2Proof.Machine

/-! ### The meaning of the three instructions (47_timers.md R194 to R196) -/

theorem exec_ldVxDT (x : RegIx) (s : State) : exec (.ldVxDT x) s = .next (s.setReg x s.dt) := rfl

theorem exec_ldDTVx (x : RegIx) (s : State) :
    exec (.ldDTVx x) s = .next (s.setDelay (s.reg x)) := rfl

theorem exec_ldSTVx (x : RegIx) (s : State) :
    exec (.ldSTVx x) s = .next (s.setSound (s.reg x)) := rfl

/-! ### What the write of a timer leaves -/

/-- The write of `DT` changes no register, `VF` included, no byte of memory, and no other part. -/
theorem frame_setDelay (s : State) (b : Byte) : Frame [] [] [.delay] s (s.setDelay b) := by
  refine ⟨fun r _ => s.reg_setDelay b r, fun a _ => s.readByte_setDelay b a, fun p hp => ?_⟩
  cases p with
  | delay => simp at hp
  | _ => rfl

/-- The write of `ST` changes no register, `VF` included, no byte of memory, and no other part. -/
theorem frame_setSound (s : State) (b : Byte) : Frame [] [] [.sound] s (s.setSound b) := by
  refine ⟨fun r _ => s.reg_setSound b r, fun a _ => s.readByte_setSound b a, fun p hp => ?_⟩
  cases p with
  | sound => simp at hp
  | _ => rfl

/-! ### The obligations -/

/-- Settles O46: low byte `0x07` of class F is the read of `DT`, and the meaning writes `DT` to `V[X]`
alone. -/
theorem ldVxDTReadsDelay : Obligations.LdVxDTReadsDelay := by
  refine ⟨fun x => ?_, fun x s => ?_⟩
  · rw [decodeOpcode_classF (formatI_c ..), decodeClassF_ldVxDT]
  · exact answers_of_exec_eq_setReg (exec_ldVxDT x s)

/-- Settles O47: low bytes `0x15` and `0x18` of class F are the writes of the timers, and each meaning
writes `V[X]` to its own timer alone. -/
theorem timersAreSet : Obligations.TimersAreSet := by
  refine ⟨fun x => ⟨?_, ?_⟩, fun x s => ⟨?_, ?_⟩⟩
  · rw [decodeOpcode_classF (formatI_c ..), decodeClassF_ldDTVx]
  · rw [decodeOpcode_classF (formatI_c ..), decodeClassF_ldSTVx]
  · exact ⟨_, exec_ldDTVx x s, s.setDelay_dt _, frame_setDelay s _⟩
  · exact ⟨_, exec_ldSTVx x s, s.setSound_st _, frame_setSound s _⟩

end Sys2Proof.Machine
end

section
/-! The decoder as a whole (30_encoding.md R84 to R92): which class function reads an opcode,
decoding after encoding and encoding after decoding, and the opcode map and the list of illegal
opcodes, each derived from the two round trips. -/

namespace Sys2Proof

open Laws

/-! ### The classes not read so far (R84) -/

theorem decodeOpcode_class0 {w : Opcode} (h : w.c = 0x0) :
    decodeOpcode w = decodeClass0 w := by
  simp [decodeOpcode, h]

theorem decodeOpcode_class1 {w : Opcode} (h : w.c = 0x1) :
    decodeOpcode w = .ok (.jp w.nnn) := by
  simp [decodeOpcode, h]

theorem decodeOpcode_class2 {w : Opcode} (h : w.c = 0x2) :
    decodeOpcode w = .ok (.call w.nnn) := by
  simp [decodeOpcode, h]

theorem decodeOpcode_classB {w : Opcode} (h : w.c = 0xB) :
    decodeOpcode w = .ok (.jpV0 w.nnn) := by
  simp [decodeOpcode, h]

theorem decodeOpcode_classC {w : Opcode} (h : w.c = 0xC) :
    decodeOpcode w = .ok (.rnd (regOfNibble w.x) w.nn) := by
  simp [decodeOpcode, h]

theorem decodeOpcode_classD {w : Opcode} (h : w.c = 0xD) :
    decodeOpcode w = .ok (.drw (regOfNibble w.x) (regOfNibble w.y) w.n) := by
  simp [decodeOpcode, h]

theorem decodeOpcode_classE {w : Opcode} (h : w.c = 0xE) :
    decodeOpcode w = decodeClassE w := by
  simp [decodeOpcode, h]

/-! ### Decoding after encoding -/

/-- The class nibble of the format selects the class function, and the low nibble or low byte
selects the instruction in it. -/
theorem decodeOpcode_encode (i : Instr) : decodeOpcode (encode i) = .ok i := by
  cases i with
  | cls | ret => rw [encode, decodeOpcode_class0 (formatI_c ..)]; simp [decodeClass0]
  | jp => rw [encode, decodeOpcode_class1 (formatA_c ..), formatA_nnn]
  | call => rw [encode, decodeOpcode_class2 (formatA_c ..), formatA_nnn]
  | seImm => rw [encode, decodeOpcode_class3 (formatI_c ..)]; simp
  | sneImm => rw [encode, decodeOpcode_class4 (formatI_c ..)]; simp
  | seReg => rw [encode, decodeOpcode_class5 (formatR_c ..)]; simp [decodeClass5]
  | ldImm => rw [encode, decodeOpcode_class6 (formatI_c ..)]; simp
  | addImm => rw [encode, decodeOpcode_class7 (formatI_c ..)]; simp
  | ldReg | or | and | xor | addReg | sub | shr | subn | shl =>
    rw [encode, decodeOpcode_class8 (formatR_c ..)]; simp [decodeClass8]
  | sneReg => rw [encode, decodeOpcode_class9 (formatR_c ..)]; simp [decodeClass9]
  | ldI => rw [encode, decodeOpcode_classA (formatA_c ..), formatA_nnn]
  | jpV0 => rw [encode, decodeOpcode_classB (formatA_c ..), formatA_nnn]
  | rnd => rw [encode, decodeOpcode_classC (formatI_c ..)]; simp
  | drw => rw [encode, decodeOpcode_classD (formatR_c ..)]; simp
  | skp | sknp => rw [encode, decodeOpcode_classE (formatI_c ..)]; simp [decodeClassE]
  | ldVxDT | ldVxK | ldDTVx | ldSTVx | addI | ldF | ldB | stRegs | ldRegs =>
    rw [encode, decodeOpcode_classF (formatI_c ..)]; simp [decodeClassF]

theorem decode_cons_cons {hi lo : Byte} {i : Instr} (rest : List Byte)
    (h : decodeOpcode (opcodeOfBytes hi lo) = .ok i) :
    decode (hi :: lo :: rest) = .ok (i, rest) := by
  simp [decode, h]

theorem decode_pair_error {hi lo : Byte} {e : DecodeError}
    (h : decodeOpcode (opcodeOfBytes hi lo) = .error e) : decode [hi, lo] = .error e := by
  simp [decode, h]

theorem decode_pair_eq_ok {hi lo : Byte} {i : Instr} :
    decode [hi, lo] = .ok (i, []) ↔ decodeOpcode (opcodeOfBytes hi lo) = .ok i := by
  refine ⟨fun h => ?_, decode_cons_cons []⟩
  match hd : decodeOpcode (opcodeOfBytes hi lo) with
  | .ok j => rw [decode_cons_cons [] hd] at h; cases h; rfl
  | .error e => rw [decode_pair_error hd] at h; cases h

/-! ### Encoding after decoding -/

/-- An opcode is built again from its class and the fields the format leaves free. -/
theorem Opcode.formatA_of_class {w : Opcode} {c : Nibble} (hc : w.c = c) : formatA c w.nnn = w :=
  hc ▸ w.eq_formatA

theorem Opcode.formatI_of_class {w : Opcode} {c : Nibble} (hc : w.c = c) : formatI c w.x w.nn = w :=
  hc ▸ w.eq_formatI

theorem Opcode.formatI_of_byte {w : Opcode} {c : Nibble} {nn : Byte} (hc : w.c = c)
    (hn : w.nn = nn) : formatI c w.x nn = w :=
  hn ▸ formatI_of_class hc

theorem Opcode.formatR_of_class {w : Opcode} {c : Nibble} (hc : w.c = c) :
    formatR c w.x w.y w.n = w :=
  hc ▸ w.eq_formatR

theorem Opcode.formatR_of_nibble {w : Opcode} {c n : Nibble} (hc : w.c = c) (hn : w.n = n) :
    formatR c w.x w.y n = w :=
  hn ▸ formatR_of_class hc

theorem nibble_cases (c : Nibble) : c = 0x0 ∨ c = 0x1 ∨ c = 0x2 ∨ c = 0x3 ∨ c = 0x4 ∨ c = 0x5 ∨
    c = 0x6 ∨ c = 0x7 ∨ c = 0x8 ∨ c = 0x9 ∨ c = 0xA ∨ c = 0xB ∨ c = 0xC ∨ c = 0xD ∨ c = 0xE ∨
    c = 0xF := by
  revert c; decide

theorem encode_of_decodeClass0 {w : Opcode} {i : Instr} (hc : w.c = 0x0)
    (h : decodeClass0 w = .ok i) : encode i = w := by
  unfold decodeClass0 at h
  split_ifs at h with h1 h2 <;> cases h
  · exact Opcode.formatI_of_byte hc h1
  · exact Opcode.formatI_of_byte hc h2

theorem encode_of_decodeClass5 {w : Opcode} {i : Instr} (hc : w.c = 0x5)
    (h : decodeClass5 w = .ok i) : encode i = w := by
  unfold decodeClass5 at h
  split_ifs at h with hn; cases h
  exact Opcode.formatR_of_nibble hc hn

theorem encode_of_decodeClass8 {w : Opcode} {i : Instr} (hc : w.c = 0x8)
    (h : decodeClass8 w = .ok i) : encode i = w := by
  unfold decodeClass8 at h
  split at h <;> cases h
  all_goals
    rename_i hn
    exact Opcode.formatR_of_nibble hc (BitVec.eq_of_toNat_eq hn)

theorem encode_of_decodeClass9 {w : Opcode} {i : Instr} (hc : w.c = 0x9)
    (h : decodeClass9 w = .ok i) : encode i = w := by
  unfold decodeClass9 at h
  split_ifs at h with hn; cases h
  exact Opcode.formatR_of_nibble hc hn

theorem encode_of_decodeClassE {w : Opcode} {i : Instr} (hc : w.c = 0xE)
    (h : decodeClassE w = .ok i) : encode i = w := by
  unfold decodeClassE at h
  split_ifs at h with h1 h2 <;> cases h
  · exact Opcode.formatI_of_byte hc h1
  · exact Opcode.formatI_of_byte hc h2

theorem encode_of_decodeClassF {w : Opcode} {i : Instr} (hc : w.c = 0xF)
    (h : decodeClassF w = .ok i) : encode i = w := by
  unfold decodeClassF at h
  split_ifs at h <;> cases h <;>
    exact Opcode.formatI_of_byte hc ‹_›

/-- Each class function keeps every bit of the opcode: the fixed ones are the class and what it
tested, the others are operands. -/
theorem encode_of_decodeOpcode {w : Opcode} {i : Instr} (h : decodeOpcode w = .ok i) :
    encode i = w := by
  obtain hc | hc | hc | hc | hc | hc | hc | hc | hc | hc | hc | hc | hc | hc | hc | hc :=
    nibble_cases w.c
  · exact encode_of_decodeClass0 hc (decodeOpcode_class0 hc ▸ h)
  · cases (decodeOpcode_class1 hc).symm.trans h; exact Opcode.formatA_of_class hc
  · cases (decodeOpcode_class2 hc).symm.trans h; exact Opcode.formatA_of_class hc
  · cases (decodeOpcode_class3 hc).symm.trans h; exact Opcode.formatI_of_class hc
  · cases (decodeOpcode_class4 hc).symm.trans h; exact Opcode.formatI_of_class hc
  · exact encode_of_decodeClass5 hc (decodeOpcode_class5 hc ▸ h)
  · cases (decodeOpcode_class6 hc).symm.trans h; exact Opcode.formatI_of_class hc
  · cases (decodeOpcode_class7 hc).symm.trans h; exact Opcode.formatI_of_class hc
  · exact encode_of_decodeClass8 hc (decodeOpcode_class8 hc ▸ h)
  · exact encode_of_decodeClass9 hc (decodeOpcode_class9 hc ▸ h)
  · cases (decodeOpcode_classA hc).symm.trans h; exact Opcode.formatA_of_class hc
  · cases (decodeOpcode_classB hc).symm.trans h; exact Opcode.formatA_of_class hc
  · cases (decodeOpcode_classC hc).symm.trans h; exact Opcode.formatI_of_class hc
  · cases (decodeOpcode_classD hc).symm.trans h; exact Opcode.formatR_of_class hc
  · exact encode_of_decodeClassE hc (decodeOpcode_classE hc ▸ h)
  · exact encode_of_decodeClassF hc (decodeOpcode_classF hc ▸ h)

theorem decodeOpcode_eq_ok {w : Opcode} {i : Instr} : decodeOpcode w = .ok i ↔ encode i = w :=
  ⟨encode_of_decodeOpcode, fun h => h ▸ decodeOpcode_encode i⟩

/-! ### The opcode map (R92) -/

theorem OpcodeRow.covers_iff {r : OpcodeRow} {w : Opcode} :
    r.covers w = true ↔ w &&& r.mask = r.pattern := by
  simp [OpcodeRow.covers]

/-- One instruction for each row of the opcode map, in the map's order. -/
def rowInstrs : List Instr :=
  [.cls 0, .ret 0, .jp 0, .call 0, .seImm 0 0, .sneImm 0 0, .seReg 0 0, .ldImm 0 0, .addImm 0 0,
   .ldReg 0 0, .or 0 0, .and 0 0, .xor 0 0, .addReg 0 0, .sub 0 0, .shr 0 0, .subn 0 0, .shl 0 0,
   .sneReg 0 0, .ldI 0, .jpV0 0, .rnd 0 0, .drw 0 0 0, .skp 0, .sknp 0, .ldVxDT 0, .ldVxK 0,
   .ldDTVx 0, .ldSTVx 0, .addI 0, .ldF 0, .ldB 0, .stRegs 0, .ldRegs 0]

theorem opcodeMap_eq_map_rowOf : opcodeMap = rowInstrs.map rowOf := rfl

theorem rowOf_mem_opcodeMap (i : Instr) : rowOf i ∈ opcodeMap := by
  cases i <;> simp [opcodeMap, rowOf]

theorem exists_rowOf_eq {r : OpcodeRow} (h : r ∈ opcodeMap) : ∃ i, rowOf i = r := by
  rw [opcodeMap_eq_map_rowOf, List.mem_map] at h
  obtain ⟨i, -, hi⟩ := h
  exact ⟨i, hi⟩

/-- The fixed bits of an instruction's opcode are those of its row. -/
theorem rowOf_covers_encode (i : Instr) : (rowOf i).covers (encode i) = true :=
  OpcodeRow.covers_iff.2 (match i with
  | .cls u => FixedBits.cls u
  | .ret u => FixedBits.ret u
  | .jp nnn => FixedBits.jp nnn
  | .call nnn => FixedBits.call nnn
  | .seImm x nn => FixedBits.seImm x nn
  | .sneImm x nn => FixedBits.sneImm x nn
  | .seReg x y => FixedBits.seReg x y
  | .ldImm x nn => FixedBits.ldImm x nn
  | .addImm x nn => FixedBits.addImm x nn
  | .ldReg x y => FixedBits.ldReg x y
  | .or x y => FixedBits.or x y
  | .and x y => FixedBits.and x y
  | .xor x y => FixedBits.xor x y
  | .addReg x y => FixedBits.addReg x y
  | .sub x y => FixedBits.sub x y
  | .shr x y => FixedBits.shr x y
  | .subn x y => FixedBits.subn x y
  | .shl x y => FixedBits.shl x y
  | .sneReg x y => FixedBits.sneReg x y
  | .ldI nnn => FixedBits.ldI nnn
  | .jpV0 nnn => FixedBits.jpV0 nnn
  | .rnd x nn => FixedBits.rnd x nn
  | .drw x y n => FixedBits.drw x y n
  | .skp x => FixedBits.skp x
  | .sknp x => FixedBits.sknp x
  | .ldVxDT x => FixedBits.ldVxDT x
  | .ldVxK x => FixedBits.ldVxK x
  | .ldDTVx x => FixedBits.ldDTVx x
  | .ldSTVx x => FixedBits.ldSTVx x
  | .addI x => FixedBits.addI x
  | .ldF x => FixedBits.ldF x
  | .ldB x => FixedBits.ldB x
  | .stRegs x => FixedBits.stRegs x
  | .ldRegs x => FixedBits.ldRegs x)

/-! An opcode whose bits under a format's mask are known is that format's, with its own operands. -/

theorem formatA_of_classMask {w : Opcode} {c : Nibble} (h : w &&& 0xF000#16 = formatA c 0) :
    formatA c w.nnn = w := by
  rw [← w.eq_formatA, formatA_mask] at h
  exact Opcode.formatA_of_class (by simpa using congrArg Opcode.c h)

theorem formatI_of_classMask {w : Opcode} {c : Nibble} (h : w &&& 0xF000#16 = formatI c 0 0) :
    formatI c w.x w.nn = w := by
  rw [← w.eq_formatI, formatI_classMask] at h
  exact Opcode.formatI_of_class (by simpa using congrArg Opcode.c h)

theorem formatI_of_byteMask {w : Opcode} {c : Nibble} {nn : Byte}
    (h : w &&& 0xF0FF#16 = formatI c 0 nn) : formatI c w.x nn = w := by
  rw [← w.eq_formatI, formatI_mask] at h
  exact Opcode.formatI_of_byte (by simpa using congrArg Opcode.c h)
    (by simpa using congrArg Opcode.nn h)

theorem formatR_of_classMask {w : Opcode} {c : Nibble} (h : w &&& 0xF000#16 = formatR c 0 0 0) :
    formatR c w.x w.y w.n = w := by
  rw [← w.eq_formatR, formatR_classMask] at h
  exact Opcode.formatR_of_class (by simpa using congrArg Opcode.c h)

theorem formatR_of_nibbleMask {w : Opcode} {c n : Nibble}
    (h : w &&& 0xF00F#16 = formatR c 0 0 n) : formatR c w.x w.y n = w := by
  rw [← w.eq_formatR, formatR_mask] at h
  exact Opcode.formatR_of_nibble (by simpa using congrArg Opcode.c h)
    (by simpa using congrArg Opcode.n h)

/-- An opcode with the fixed bits of an instruction's row is the encoding of an instruction of that
row. -/
theorem exists_encode_of_mask {w : Opcode} : ∀ j : Instr, w &&& (rowOf j).mask = (rowOf j).pattern →
    ∃ i, encode i = w ∧ rowOf i = rowOf j
  | .cls _, h => ⟨.cls w.x, formatI_of_byteMask h, rfl⟩
  | .ret _, h => ⟨.ret w.x, formatI_of_byteMask h, rfl⟩
  | .jp _, h => ⟨.jp w.nnn, formatA_of_classMask h, rfl⟩
  | .call _, h => ⟨.call w.nnn, formatA_of_classMask h, rfl⟩
  | .seImm _ _, h => ⟨.seImm (regOfNibble w.x) w.nn, formatI_of_classMask h, rfl⟩
  | .sneImm _ _, h => ⟨.sneImm (regOfNibble w.x) w.nn, formatI_of_classMask h, rfl⟩
  | .seReg _ _, h => ⟨.seReg (regOfNibble w.x) (regOfNibble w.y), formatR_of_nibbleMask h, rfl⟩
  | .ldImm _ _, h => ⟨.ldImm (regOfNibble w.x) w.nn, formatI_of_classMask h, rfl⟩
  | .addImm _ _, h => ⟨.addImm (regOfNibble w.x) w.nn, formatI_of_classMask h, rfl⟩
  | .ldReg _ _, h => ⟨.ldReg (regOfNibble w.x) (regOfNibble w.y), formatR_of_nibbleMask h, rfl⟩
  | .or _ _, h => ⟨.or (regOfNibble w.x) (regOfNibble w.y), formatR_of_nibbleMask h, rfl⟩
  | .and _ _, h => ⟨.and (regOfNibble w.x) (regOfNibble w.y), formatR_of_nibbleMask h, rfl⟩
  | .xor _ _, h => ⟨.xor (regOfNibble w.x) (regOfNibble w.y), formatR_of_nibbleMask h, rfl⟩
  | .addReg _ _, h => ⟨.addReg (regOfNibble w.x) (regOfNibble w.y), formatR_of_nibbleMask h, rfl⟩
  | .sub _ _, h => ⟨.sub (regOfNibble w.x) (regOfNibble w.y), formatR_of_nibbleMask h, rfl⟩
  | .shr _ _, h => ⟨.shr (regOfNibble w.x) (regOfNibble w.y), formatR_of_nibbleMask h, rfl⟩
  | .subn _ _, h => ⟨.subn (regOfNibble w.x) (regOfNibble w.y), formatR_of_nibbleMask h, rfl⟩
  | .shl _ _, h => ⟨.shl (regOfNibble w.x) (regOfNibble w.y), formatR_of_nibbleMask h, rfl⟩
  | .sneReg _ _, h => ⟨.sneReg (regOfNibble w.x) (regOfNibble w.y), formatR_of_nibbleMask h, rfl⟩
  | .ldI _, h => ⟨.ldI w.nnn, formatA_of_classMask h, rfl⟩
  | .jpV0 _, h => ⟨.jpV0 w.nnn, formatA_of_classMask h, rfl⟩
  | .rnd _ _, h => ⟨.rnd (regOfNibble w.x) w.nn, formatI_of_classMask h, rfl⟩
  | .drw _ _ _, h => ⟨.drw (regOfNibble w.x) (regOfNibble w.y) w.n, formatR_of_classMask h, rfl⟩
  | .skp _, h => ⟨.skp (regOfNibble w.x), formatI_of_byteMask h, rfl⟩
  | .sknp _, h => ⟨.sknp (regOfNibble w.x), formatI_of_byteMask h, rfl⟩
  | .ldVxDT _, h => ⟨.ldVxDT (regOfNibble w.x), formatI_of_byteMask h, rfl⟩
  | .ldVxK _, h => ⟨.ldVxK (regOfNibble w.x), formatI_of_byteMask h, rfl⟩
  | .ldDTVx _, h => ⟨.ldDTVx (regOfNibble w.x), formatI_of_byteMask h, rfl⟩
  | .ldSTVx _, h => ⟨.ldSTVx (regOfNibble w.x), formatI_of_byteMask h, rfl⟩
  | .addI _, h => ⟨.addI (regOfNibble w.x), formatI_of_byteMask h, rfl⟩
  | .ldF _, h => ⟨.ldF (regOfNibble w.x), formatI_of_byteMask h, rfl⟩
  | .ldB _, h => ⟨.ldB (regOfNibble w.x), formatI_of_byteMask h, rfl⟩
  | .stRegs _, h => ⟨.stRegs (regOfNibble w.x), formatI_of_byteMask h, rfl⟩
  | .ldRegs _, h => ⟨.ldRegs (regOfNibble w.x), formatI_of_byteMask h, rfl⟩

theorem exists_decode_of_covers {w : Opcode} {r : OpcodeRow} (hr : r ∈ opcodeMap)
    (hc : r.covers w = true) : ∃ i, decodeOpcode w = .ok i ∧ rowOf i = r := by
  obtain ⟨j, rfl⟩ := exists_rowOf_eq hr
  obtain ⟨i, hi, hrow⟩ := exists_encode_of_mask j (OpcodeRow.covers_iff.1 hc)
  exact ⟨i, decodeOpcode_eq_ok.2 hi, hrow⟩

theorem covers_of_decodeOpcode {w : Opcode} {i : Instr} (h : decodeOpcode w = .ok i) :
    (rowOf i).covers w = true :=
  encode_of_decodeOpcode h ▸ rowOf_covers_encode i

theorem Opcode.illegal_iff {w : Opcode} :
    w.illegal = true ↔ ∀ r ∈ opcodeMap, r.covers w ≠ true := by
  simp [Opcode.illegal]

theorem illegal_iff_decodeOpcode_error (w : Opcode) :
    w.illegal = true ↔ ∃ e, decodeOpcode w = .error e := by
  rw [Opcode.illegal_iff]
  constructor
  · intro h
    match hd : decodeOpcode w with
    | .ok i => exact absurd (covers_of_decodeOpcode hd) (h _ (rowOf_mem_opcodeMap i))
    | .error e => exact ⟨e, rfl⟩
  · rintro ⟨e, he⟩ r hr hc
    obtain ⟨i, hi, -⟩ := exists_decode_of_covers hr hc
    cases he.symm.trans hi

/-! ### The illegal opcodes, class by class (R85 to R90) -/

theorem decodeClass0_error_iff (w : Opcode) :
    (∃ e, decodeClass0 w = .error e) ↔ w.nn ≠ 0xE0 ∧ w.nn ≠ 0xEE := by
  unfold decodeClass0
  split_ifs <;> simp_all

theorem decodeClass5_error_iff (w : Opcode) : (∃ e, decodeClass5 w = .error e) ↔ w.n ≠ 0 := by
  unfold decodeClass5
  split_ifs <;> simp_all

theorem decodeClass8_error_iff (w : Opcode) :
    (∃ e, decodeClass8 w = .error e) ↔ 8 ≤ w.n.toNat ∧ w.n ≠ 0xE := by
  obtain hn | hn | hn | hn | hn | hn | hn | hn | hn | hn | hn | hn | hn | hn | hn | hn :=
    nibble_cases w.n <;> simp [decodeClass8, hn]

theorem decodeClass9_error_iff (w : Opcode) : (∃ e, decodeClass9 w = .error e) ↔ w.n ≠ 0 := by
  unfold decodeClass9
  split_ifs <;> simp_all

theorem decodeClassE_error_iff (w : Opcode) :
    (∃ e, decodeClassE w = .error e) ↔ w.nn ≠ 0x9E ∧ w.nn ≠ 0xA1 := by
  unfold decodeClassE
  split_ifs <;> simp_all

theorem decodeClassF_error_iff (w : Opcode) : (∃ e, decodeClassF w = .error e) ↔
    w.nn ∉ [0x07#8, 0x0A#8, 0x15#8, 0x18#8, 0x1E#8, 0x29#8, 0x33#8, 0x55#8, 0x65#8] := by
  unfold decodeClassF
  split_ifs <;> simp_all

end Sys2Proof

namespace Sys2Proof.Machine

/-! ### The obligations -/

/-- Settles O1: the two bytes make the opcode again, and the opcode is read by its class and its
fixed bits as the instruction it encodes. -/
theorem decodeOfEncode : Obligations.DecodeOfEncode := fun i rest =>
  decode_cons_cons rest ((congrArg decodeOpcode (opcodeOfBytes_bytesOfOpcode _)).trans
    (decodeOpcode_encode i))

/-- Settles O2: every class function keeps all bits of the opcode it reads. -/
theorem encodeOfDecode : Obligations.EncodeOfDecode := fun _ _ => encode_of_decodeOpcode

/-- Settles O3: an opcode is covered by the row of what it encodes, and one a row covers encodes an
instruction of that row, so the round trips give all three clauses. -/
theorem decoderFollowsOpcodeMap : Obligations.DecoderFollowsOpcodeMap := fun w =>
  ⟨fun i h => ⟨rowOf_mem_opcodeMap i, covers_of_decodeOpcode h⟩,
    fun _ => exists_decode_of_covers, illegal_iff_decodeOpcode_error w⟩

/-- Settles O4: ten classes are read whole, and each of the other six refuses exactly the opcodes
the list names for it. -/
theorem illegalOpcodesAreExact : Obligations.IllegalOpcodesAreExact := by
  intro w
  obtain hc | hc | hc | hc | hc | hc | hc | hc | hc | hc | hc | hc | hc | hc | hc | hc :=
    nibble_cases w.c
  · rw [decodeOpcode_class0 hc, decodeClass0_error_iff]; simp [hc]
  · simp [decodeOpcode_class1 hc, hc]
  · simp [decodeOpcode_class2 hc, hc]
  · simp [decodeOpcode_class3 hc, hc]
  · simp [decodeOpcode_class4 hc, hc]
  · rw [decodeOpcode_class5 hc, decodeClass5_error_iff]; simp [hc]
  · simp [decodeOpcode_class6 hc, hc]
  · simp [decodeOpcode_class7 hc, hc]
  · rw [decodeOpcode_class8 hc, decodeClass8_error_iff]; simp [hc]
  · rw [decodeOpcode_class9 hc, decodeClass9_error_iff]; simp [hc]
  · simp [decodeOpcode_classA hc, hc]
  · simp [decodeOpcode_classB hc, hc]
  · simp [decodeOpcode_classC hc, hc]
  · simp [decodeOpcode_classD hc, hc]
  · rw [decodeOpcode_classE hc, decodeClassE_error_iff]; simp [hc]
  · rw [decodeOpcode_classF hc, decodeClassF_error_iff]; simp [hc]

/-- Settles O5: the five legal words are the bytes of what they stand for, and the two illegal ones
fail the test of their class. -/
theorem sampleWordsDecode : Obligations.SampleWordsDecode :=
  ⟨decodeOfEncode (.jp 0x234) [], decodeOfEncode (.addReg 0 1) [], decodeOfEncode (.drw 1 2 5) [],
    decodeOfEncode (.ldRegs 2) [], decodeOfEncode (.ret 7) [],
    decode_pair_error rfl, decode_pair_error rfl⟩

end Sys2Proof.Machine
end

section
/-! How a frame composes, the frames of the updates not framed so far, and the meaning of the
remaining instructions as one equation each over the named updates. -/

namespace Sys2Proof.Machine

/-! ### Frames compose -/

theorem StatePart.Same.trans {s t u : State} {p : StatePart} (hst : p.Same s t) (htu : p.Same t u) :
    p.Same s u := by
  cases p <;> exact Eq.trans htu hst

/-- What two updates in a row change is what the one or the other changes. -/
theorem Frame.trans {r₁ r₂ : List RegIx} {m₁ m₂ : List Nat} {p₁ p₂ : List StatePart} {s t u : State}
    (hst : Frame r₁ m₁ p₁ s t) (htu : Frame r₂ m₂ p₂ t u) :
    Frame (r₁ ++ r₂) (m₁ ++ m₂) (p₁ ++ p₂) s u := by
  obtain ⟨hreg, hmem, hpart⟩ := hst
  obtain ⟨hreg', hmem', hpart'⟩ := htu
  simp only [Frame, List.mem_append, not_or]
  exact ⟨fun r hr => (hreg' r hr.2).trans (hreg r hr.1),
    fun a ha => (hmem' a ha.2).trans (hmem a ha.1),
    fun p hp => (hpart p hp.1).trans (hpart' p hp.2)⟩

theorem Frame.mono {r₁ r₂ : List RegIx} {m₁ m₂ : List Nat} {p₁ p₂ : List StatePart} {s t : State}
    (h : Frame r₁ m₁ p₁ s t) (hr : r₁ ⊆ r₂) (hm : m₁ ⊆ m₂) (hp : p₁ ⊆ p₂) : Frame r₂ m₂ p₂ s t := by
  obtain ⟨hreg, hmem, hpart⟩ := h
  exact ⟨fun r hn => hreg r fun h' => hn (hr h'), fun a hn => hmem a fun h' => hn (hm h'),
    fun p hn => hpart p fun h' => hn (hp h')⟩

/-! ### The frame of each update -/

/-- An update of parts other than registers and memory changes those parts alone. -/
theorem frame_of_v_mem {parts : List StatePart} {s t : State} (hv : t.v = s.v)
    (hmem : t.mem = s.mem) (hparts : ∀ p, p ∉ parts → p.Same s t) : Frame [] [] parts s t :=
  ⟨fun r _ => by rw [State.reg, State.reg, hv],
    fun a _ => by rw [State.readByte, State.readByte, hmem], hparts⟩

theorem frame_setPc (s : State) (p : PcWord) : Frame [] [] [.pc] s (s.setPc p) :=
  frame_of_v_mem rfl rfl fun q hq => by
    cases q with
    | pc => simp at hq
    | _ => rfl

theorem frame_setDepth (s : State) (n : Nat) : Frame [] [] [.depth] s (s.setDepth n) :=
  frame_of_v_mem rfl rfl fun q hq => by
    cases q with
    | depth => simp at hq
    | _ => rfl

theorem frame_setScreen (s : State) (fb : Screen) : Frame [] [] [.screen] s (s.setScreen fb) :=
  frame_of_v_mem rfl rfl fun q hq => by
    cases q with
    | screen => simp at hq
    | _ => rfl

theorem frame_answered (s : State) : Frame [] [] [.draws] s s.answered :=
  frame_of_v_mem rfl rfl fun q hq => by
    cases q with
    | draws => simp at hq
    | _ => rfl

theorem frame_writeByte (s : State) (a : Nat) (b : Byte) :
    Frame [] [a % memSize] [] s (s.writeByte a b) := by
  refine ⟨fun r _ => s.reg_writeByte a b r, fun x hx => ?_, fun p _ => ?_⟩
  · exact s.readByte_writeByte_ne a x b (by simpa using hx)
  · cases p <;> rfl

theorem frame_setResultThenFlag (s : State) (x : RegIx) (result flag : Byte) :
    Frame [x, vf] [] [] s (s.setResultThenFlag x result flag) :=
  (frame_setReg s x result).trans (frame_setReg _ vf flag)

theorem frame_setFlagThenResult (s : State) (x : RegIx) (result flag : Byte) :
    Frame [x, vf] [] [] s (s.setFlagThenResult x result flag) :=
  ((frame_setReg s vf flag).trans (frame_setReg _ x result)).mono (by simp) (by simp) (by simp)

/-- A block store changes the bytes at `I` and up alone. -/
theorem frame_storeRange (s : State) {n : Nat} (hn : n ≤ 16) :
    Frame [] ((List.range n).map s.dataAddr) [] s (s.storeRange n) := by
  refine ⟨fun r _ => s.storeRange_reg n r, fun a ha => ?_, fun p _ => ?_⟩
  · refine (s.readByte_storeRange n hn a).2 fun k hk e => ha ?_
    exact List.mem_map.2 ⟨k, List.mem_range.2 hk, e.symm⟩
  · rw [s.storeRange_eq n]; cases p <;> rfl

/-- A block load changes the registers from `V[0]` up alone. -/
theorem frame_loadRange (s : State) {n : Nat} (hn : n ≤ 16) :
    Frame ((List.range n).map regNo) [] [] s (s.loadRange n) := by
  refine ⟨fun r hr => ?_, fun a _ => ?_, fun p _ => ?_⟩
  · rw [s.reg_loadRange n hn, if_neg]
    exact fun hlt => hr (List.mem_map.2 ⟨r.val, List.mem_range.2 hlt, regNo_self r⟩)
  · rw [s.loadRange_eq n]; rfl
  · rw [s.loadRange_eq n]; cases p <;> rfl

/-! ### The meaning of each instruction -/

section
variable (s : State)

theorem exec_cls (u : Nibble) : exec (.cls u) s = .next (s.setScreen Screen.clear) := rfl

theorem exec_jp (nnn : Addr) : exec (.jp nnn) s = .next (s.setPc (absTarget nnn)) := rfl

theorem exec_jpV0 (nnn : Addr) : exec (.jpV0 nnn) s = .next (s.setPc (s.offsetTarget nnn)) := rfl

theorem exec_addReg (x y : RegIx) : exec (.addReg x y) s = .next (s.setResultThenFlag x
    (addResult (s.reg x) (s.reg y)) (addCarry (s.reg x) (s.reg y))) := rfl

theorem exec_sub (x y : RegIx) : exec (.sub x y) s = .next (s.setFlagThenResult x
    (subResult (s.reg x) (s.reg y)) (subNoBorrow (s.reg x) (s.reg y))) := rfl

theorem exec_subn (x y : RegIx) : exec (.subn x y) s = .next (s.setFlagThenResult x
    (subResult (s.reg y) (s.reg x)) (subNoBorrow (s.reg y) (s.reg x))) := rfl

theorem exec_shr (x y : RegIx) : exec (.shr x y) s = .next (s.setFlagThenResult x
    (shrResult (s.reg x)) (shrFlag (s.reg x))) := rfl

theorem exec_shl (x y : RegIx) : exec (.shl x y) s = .next (s.setFlagThenResult x
    (shlResult (s.reg x)) (shlFlag (s.reg x))) := rfl

theorem exec_rnd (x : RegIx) (nn : Byte) :
    exec (.rnd x nn) s = .next (s.setReg x (s.randomByte &&& nn)).answered := rfl

theorem exec_drw (x y : RegIx) (n : Nibble) : exec (.drw x y n) s =
    .next ((s.setScreen (s.drawn (s.reg x) (s.reg y) n).1).setReg vf
      (flagByte (s.drawn (s.reg x) (s.reg y) n).2)) := rfl

theorem exec_skp (x : RegIx) :
    exec (.skp x) s = .next (s.skipIf (s.keyDown (s.reg x))).answered := rfl

theorem exec_sknp (x : RegIx) :
    exec (.sknp x) s = .next (s.skipIf (!s.keyDown (s.reg x))).answered := rfl

theorem exec_ldF (x : RegIx) : exec (.ldF x) s = .next (s.setIndex (glyphAddr (s.reg x))) := rfl

theorem exec_ldB (x : RegIx) : exec (.ldB x) s =
    .next (((s.writeByte (s.dataAddr 0) (hundreds (s.reg x))).writeByte (s.dataAddr 1)
      (tens (s.reg x))).writeByte (s.dataAddr 2) (ones (s.reg x))) := rfl

theorem exec_stRegs (x : RegIx) : exec (.stRegs x) s = .next (s.storeRange (x.val + 1)) := rfl

theorem exec_ldRegs (x : RegIx) : exec (.ldRegs x) s = .next (s.loadRange (x.val + 1)) := rfl

/-- `FX0A` where a key is delivered (46_keypad.md R189). -/
theorem exec_ldVxK_delivered (x : RegIx) (h : s.noKeyAt ≠ some s.draws) :
    exec (.ldVxK x) s = .next (s.setReg x (Config.waitKey s.draws)).answered := by
  simp [exec, execLdVxK, s.waitKey_some h]

/-- `FX0A` where none ever is (46_keypad.md R190). -/
theorem exec_ldVxK_stuck (x : RegIx) (h : s.noKeyAt = some s.draws) :
    exec (.ldVxK x) s = .fault .noKey := by
  simp [exec, execLdVxK, s.waitKey_none h]

/-- The state a push that has room leaves (10_state.md R31). -/
def State.pushed (a : PcWord) : State :=
  ((s.writeByte (stackAddr s.sp) (highByte a)).writeByte (stackAddr s.sp + 1)
    (lowByte a)).setDepth (s.sp + 1)

theorem exec_call_room (nnn : Addr) (h : s.sp ≠ stackCapacity) :
    exec (.call nnn) s = .next ((s.pushed s.pc).setPc (absTarget nnn)) := by
  simp only [exec, execCall, s.push_room s.pc h]; rfl

theorem exec_call_full (nnn : Addr) (h : s.sp = stackCapacity) :
    exec (.call nnn) s = .next (s.raiseHalt .stackOverflow) := by
  simp only [exec, execCall, s.push_full s.pc h]; rfl

theorem exec_ret_some (u : Nibble) (h : s.sp ≠ 0) :
    exec (.ret u) s = .next ((s.setDepth (s.sp - 1)).setPc (s.stackEntry (s.sp - 1))) := by
  simp only [exec, execRet, s.pop_some h]; rfl

theorem exec_ret_empty (u : Nibble) (h : s.sp = 0) :
    exec (.ret u) s = .next (s.raiseHalt .stackUnderflow) := by
  simp only [exec, execRet, s.pop_empty h]; rfl

end

/-! ### What the instructions with two ends can do -/

section
variable {s t : State}

theorem exec_call_cases {nnn : Addr} (h : exec (.call nnn) s = .next t) :
    (s.sp = stackCapacity ∧ t = s.raiseHalt .stackOverflow) ∨
    (s.sp ≠ stackCapacity ∧ t = (s.pushed s.pc).setPc (absTarget nnn)) := by
  by_cases hsp : s.sp = stackCapacity
  · cases (exec_call_full s nnn hsp).symm.trans h; exact .inl ⟨hsp, rfl⟩
  · cases (exec_call_room s nnn hsp).symm.trans h; exact .inr ⟨hsp, rfl⟩

theorem exec_ret_cases {u : Nibble} (h : exec (.ret u) s = .next t) :
    (s.sp = 0 ∧ t = s.raiseHalt .stackUnderflow) ∨
    (s.sp ≠ 0 ∧ t = (s.setDepth (s.sp - 1)).setPc (s.stackEntry (s.sp - 1))) := by
  by_cases hsp : s.sp = 0
  · cases (exec_ret_empty s u hsp).symm.trans h; exact .inl ⟨hsp, rfl⟩
  · cases (exec_ret_some s u hsp).symm.trans h; exact .inr ⟨hsp, rfl⟩

theorem exec_ldVxK_cases {x : RegIx} (h : exec (.ldVxK x) s = .next t) :
    s.noKeyAt ≠ some s.draws ∧ t = (s.setReg x (Config.waitKey s.draws)).answered := by
  by_cases hkey : s.noKeyAt = some s.draws
  · cases (exec_ldVxK_stuck s x hkey).symm.trans h
  · cases (exec_ldVxK_delivered s x hkey).symm.trans h; exact ⟨hkey, rfl⟩

end

/-! ### The frames of the composite updates -/

theorem frame_pushed (s : State) (a : PcWord) :
    Frame [] [stackAddr s.sp % memSize, (stackAddr s.sp + 1) % memSize] [.depth] s (s.pushed a) :=
  ((frame_writeByte s _ _).trans (frame_writeByte _ _ _)).trans (frame_setDepth _ _)

theorem frame_setReg_answered (s : State) (x : RegIx) (b : Byte) :
    Frame [x] [] [.draws] s (s.setReg x b).answered :=
  (frame_setReg s x b).trans (frame_answered _)

theorem frame_skipIf_answered (s : State) (taken : Bool) :
    Frame [] [] [.pc, .draws] s (s.skipIf taken).answered :=
  (frame_skipIf s taken).trans (frame_answered _)

theorem frame_setScreen_setReg (s : State) (fb : Screen) (x : RegIx) (b : Byte) :
    Frame [x] [] [.screen] s ((s.setScreen fb).setReg x b) :=
  (frame_setScreen s fb).trans (frame_setReg _ x b)

theorem frame_setDepth_setPc (s : State) (n : Nat) (p : PcWord) :
    Frame [] [] [.depth, .pc] s ((s.setDepth n).setPc p) :=
  (frame_setDepth s n).trans (frame_setPc _ p)

theorem frame_pushed_setPc (s : State) (a p : PcWord) :
    Frame [] [stackAddr s.sp % memSize, (stackAddr s.sp + 1) % memSize] [.depth, .pc] s
      ((s.pushed a).setPc p) :=
  (frame_pushed s a).trans (frame_setPc _ p)

/-- The three stores of `FX33` (45_index_memory.md R174). -/
theorem frame_writeByte_dataAddr (s : State) (a b c : Byte) :
    Frame [] [s.dataAddr 0, s.dataAddr 1, s.dataAddr 2] [] s
      (((s.writeByte (s.dataAddr 0) a).writeByte (s.dataAddr 1) b).writeByte (s.dataAddr 2) c) := by
  have h := ((frame_writeByte s (s.dataAddr 0) a).trans
    (frame_writeByte _ (s.dataAddr 1) b)).trans (frame_writeByte _ (s.dataAddr 2) c)
  simpa using h

/-! ### The obligation on all frames -/

/-- Settles O11: the frame of each meaning is the frame of the updates it is made of; a halt is not
a completed instruction. -/
theorem everyInstructionFrame : Obligations.EveryInstructionFrame := by
  intro i s t h hready
  cases i with
  | cls => cases h; exact frame_setScreen s _
  | ret =>
    obtain ⟨-, rfl⟩ | ⟨-, rfl⟩ := exec_ret_cases h
    · cases hready
    · exact frame_setDepth_setPc s _ _
  | jp | jpV0 => cases h; exact frame_setPc s _
  | call =>
    obtain ⟨-, rfl⟩ | ⟨-, rfl⟩ := exec_call_cases h
    · cases hready
    · exact frame_pushed_setPc s _ _
  | seImm | sneImm | seReg | sneReg => cases h; exact frame_skipIf s _
  | ldImm | addImm | ldReg | or | and | xor | ldVxDT => cases h; exact frame_setReg s _ _
  | addReg => cases h; exact frame_setResultThenFlag s _ _ _
  | sub | subn | shr | shl => cases h; exact frame_setFlagThenResult s _ _ _
  | ldI | addI | ldF => cases h; exact frame_setIndex s _
  | rnd => cases h; exact frame_setReg_answered s _ _
  | drw => cases h; exact frame_setScreen_setReg s _ _ _
  | skp | sknp => cases h; exact frame_skipIf_answered s _
  | ldVxK => obtain ⟨-, rfl⟩ := exec_ldVxK_cases h; exact frame_setReg_answered s _ _
  | ldDTVx => cases h; exact frame_setDelay s _
  | ldSTVx => cases h; exact frame_setSound s _
  | ldB => cases h; exact frame_writeByte_dataAddr s _ _ _
  | stRegs x => cases h; exact frame_storeRange s (by omega)
  | ldRegs x => cases h; exact frame_loadRange s (by omega)

end Sys2Proof.Machine
end

section
/-! The invariant: memory in canonical form and the call depth within capacity. Every instruction
keeps it, so every cycle does, so every step and every request of the host does. -/

namespace Sys2Proof.Machine

theorem State.pushed_mem_wf (s : State) (a : PcWord) (w : s.mem.wf = true) :
    (s.pushed a).mem.wf = true :=
  State.wf_writeByte _ _ (State.wf_writeByte _ _ w)

theorem State.storeRange_sp (s : State) (n : Nat) : (s.storeRange n).sp = s.sp := by
  rw [s.storeRange_eq n]

theorem State.loadRange_mem (s : State) (n : Nat) : (s.loadRange n).mem = s.mem := by
  rw [s.loadRange_eq n]

theorem State.loadRange_sp (s : State) (n : Nat) : (s.loadRange n).sp = s.sp := by
  rw [s.loadRange_eq n]

/-- Only `FX33`, `FX55` and a call store to memory, and only a call and a return move the depth: a
call below capacity, a return above 0. -/
theorem exec_keeps_inv {i : Instr} {s t : State} (hs : s.Inv) (h : exec i s = .next t) : t.Inv := by
  obtain ⟨hwf, hsp⟩ := hs
  cases i with
  | ret =>
    obtain ⟨-, rfl⟩ | ⟨-, rfl⟩ := exec_ret_cases h
    · exact ⟨hwf, hsp⟩
    · exact ⟨hwf, (Nat.sub_le ..).trans hsp⟩
  | call =>
    obtain ⟨-, rfl⟩ | ⟨hroom, rfl⟩ := exec_call_cases h
    · exact ⟨hwf, hsp⟩
    · exact ⟨s.pushed_mem_wf _ hwf, Nat.lt_of_le_of_ne hsp hroom⟩
  | ldVxK => obtain ⟨-, rfl⟩ := exec_ldVxK_cases h; exact ⟨hwf, hsp⟩
  | ldB =>
    cases h
    exact ⟨State.wf_writeByte _ _ (State.wf_writeByte _ _ (State.wf_writeByte _ _ hwf)), hsp⟩
  | stRegs => cases h; exact ⟨s.wf_storeRange _ hwf, (s.storeRange_sp _).trans_le hsp⟩
  | ldRegs =>
    cases h
    exact ⟨(congrArg Memory.wf (s.loadRange_mem _)).trans hwf, (s.loadRange_sp _).trans_le hsp⟩
  | _ => cases h; exact ⟨hwf, hsp⟩

theorem State.cycle_keeps_inv {s t : State} (hs : s.Inv) (h : s.cycle = .next t) : t.Inv := by
  obtain ⟨-, ⟨-, rfl⟩ | ⟨-, -, -, rfl⟩ | ⟨-, i, -, hexec⟩⟩ := State.cycle_cases h
  · exact hs
  · exact hs
  · exact exec_keeps_inv (s := s.advancePc) hs hexec

theorem State.inv_of_mem_sp {s t : State} (hs : s.Inv) (hmem : t.mem = s.mem) (hsp : t.sp = s.sp) :
    t.Inv := by
  rw [State.Inv, hmem, hsp]; exact hs

theorem State.load_eq_some {s t : State} {rom : List Byte} (h : s.load rom = some t) :
    t = (s.writeBlock progOrigin.toNat rom).setPc progOrigin := by
  unfold State.load at h
  split at h <;> cases h
  rfl

theorem State.writeBlock_sp (s : State) (a : Nat) (bs : List Byte) :
    (s.writeBlock a bs).sp = s.sp := by
  rw [State.writeBlock_eq]

theorem State.load_keeps_inv {s t : State} {rom : List Byte} (hs : s.Inv)
    (h : s.load rom = some t) : t.Inv := by
  obtain ⟨hwf, hsp⟩ := hs
  rw [State.load_eq_some h]
  exact ⟨State.wf_writeBlock _ _ _ hwf, (s.writeBlock_sp _ _).trans_le hsp⟩

theorem State.reset_inv : State.reset.Inv := ⟨State.reset_mem_wf, Nat.zero_le _⟩

theorem State.serve_keeps_inv {s : State} {r : Request} {p : Reply × State} (hs : s.Inv)
    (h : s.serve r = some p) : p.2.Inv := by
  cases r with
  | reset => cases h; exact State.inv_of_mem_sp State.reset_inv rfl rfl
  | load rom =>
    simp only [State.serve] at h
    split at h <;> cases h
    · next hload => exact State.load_keeps_inv hs hload
    · exact hs
  | cycle =>
    obtain hcycle | hsame := State.serveCycle_cases h
    · exact State.cycle_keeps_inv hs hcycle
    · rw [hsame]; exact hs
  | timerTick => cases h; exact State.inv_of_mem_sp hs (s.ticks_mem 1) (s.ticks_sp 1)
  | readFramebuffer | readStatus => cases h; exact hs

/-! ### The obligations -/

/-- Settles O14: the ticks before the cycle touch neither memory nor the depth, and every
instruction keeps the invariant. -/
theorem stepKeepsInv : Obligations.StepKeepsInv := fun s _ hs h =>
  State.cycle_keeps_inv (State.inv_of_mem_sp hs s.beforeCycle_mem s.beforeCycle_sp) h

/-- Settles O15: the reset memory lists nothing and the stack is empty. -/
theorem resetMeetsInv : Obligations.ResetMeetsInv := State.reset_inv

/-- Settles O16, by induction on the schedule: every request that returns keeps the invariant. -/
theorem requestsKeepInv : Obligations.RequestsKeepInv := by
  intro rs
  induction rs with
  | nil => intro s t hs h; cases h; exact hs
  | cons r rs ih =>
    intro s t hs h
    simp only [State.serveAll] at h
    split at h
    · next p hserve => exact ih p.2 t (State.serve_keeps_inv hs hserve) h
    · cases h

end Sys2Proof.Machine
end

section
/-! Rules over all instructions beside the frame: which of them answer and with what `STATUS`, what
a flag can be, and that the sound timer is not read. -/

namespace Sys2Proof.Machine

/-! ### What an instruction answers -/

/-- `STATUS` after an instruction that answers: as before but for the two stack tests
(60_exceptions.md R202, R203). -/
def State.statusAfterExec (s : State) : Instr → Status
  | .call _ => if s.sp = stackCapacity then .halted .stackOverflow else s.status
  | .ret _ => if s.sp = 0 then .halted .stackUnderflow else s.status
  | _ => s.status

theorem exec_answers (i : Instr) (s : State)
    (hkey : (∃ x, i = .ldVxK x) → s.noKeyAt ≠ some s.draws) :
    ∃ t, exec i s = .next t ∧ t.status = s.statusAfterExec i := by
  cases i with
  | call nnn =>
    by_cases hsp : s.sp = stackCapacity
    · exact ⟨_, exec_call_full s nnn hsp, by simp [State.statusAfterExec, hsp]⟩
    · exact ⟨_, exec_call_room s nnn hsp, by simp [State.statusAfterExec, hsp, State.pushed]⟩
  | ret u =>
    by_cases hsp : s.sp = 0
    · exact ⟨_, exec_ret_empty s u hsp, by simp [State.statusAfterExec, hsp]⟩
    · exact ⟨_, exec_ret_some s u hsp, by simp [State.statusAfterExec, hsp]⟩
  | ldVxK x => exact ⟨_, exec_ldVxK_delivered s x (hkey ⟨x, rfl⟩), rfl⟩
  | stRegs x => exact ⟨_, exec_stRegs s x, by rw [State.storeRange_eq]; rfl⟩
  | ldRegs x => exact ⟨_, exec_ldRegs s x, by rw [State.loadRange_eq]; rfl⟩
  | _ => exact ⟨_, rfl, rfl⟩

/-- Settles O9: only `FX0A` asks for a key, and it is stuck exactly where none is delivered. -/
theorem everyInstructionAnswers : Obligations.EveryInstructionAnswers := by
  refine ⟨fun x s h => exec_ldVxK_stuck s x h, fun i s hkey => ?_⟩
  obtain ⟨t, hexec, -⟩ := exec_answers i s hkey
  exact ⟨t, hexec⟩

/-! ### Flags (10_state.md R22) -/

theorem flagByte_eq_zero_or_one (b : Bool) : flagByte b = 0 ∨ flagByte b = 1 := by
  cases b
  · exact .inl rfl
  · exact .inr rfl

theorem shrFlag_eq_zero_or_one (a : Byte) : shrFlag a = 0 ∨ shrFlag a = 1 := by
  have h := shrFlag_toNat a
  rcases Nat.mod_two_eq_zero_or_one a.toNat with h' | h'
  · exact .inl (BitVec.eq_of_toNat_eq (h.trans h'))
  · exact .inr (BitVec.eq_of_toNat_eq (h.trans h'))

@[simp] theorem State.reg_vf_setResultThenFlag (s : State) (x : RegIx) (result flag : Byte) :
    (s.setResultThenFlag x result flag).reg vf = flag := by
  simp [State.reg_setResultThenFlag]

theorem State.reg_setResultThenFlag_self (s : State) {x : RegIx} (result flag : Byte)
    (hx : x ≠ vf) : (s.setResultThenFlag x result flag).reg x = result := by
  simp [State.reg_setResultThenFlag, hx]

@[simp] theorem State.reg_setFlagThenResult_self (s : State) (x : RegIx) (result flag : Byte) :
    (s.setFlagThenResult x result flag).reg x = result := by
  simp [State.reg_setFlagThenResult]

theorem State.reg_vf_setFlagThenResult (s : State) {x : RegIx} (result flag : Byte) (hx : x ≠ vf) :
    (s.setFlagThenResult x result flag).reg vf = flag := by
  simp [State.reg_setFlagThenResult, hx.symm]

/-- Settles O12: the last write to `VF` is the flag, and the flag is a Boolean's byte or a bit cut
out. -/
theorem flagIsZeroOrOne : Obligations.FlagIsZeroOrOne := by
  intro i s t hflag hx h
  cases i with
  | addReg x y => cases h; rw [s.reg_vf_setResultThenFlag]; exact flagByte_eq_zero_or_one _
  | sub x | subn x | shl x =>
    cases h
    rw [s.reg_vf_setFlagThenResult _ _ fun e => hx (by rw [regsWritten, e])]
    exact flagByte_eq_zero_or_one _
  | shr x =>
    cases h
    rw [s.reg_vf_setFlagThenResult _ _ fun e => hx (by rw [regsWritten, e])]
    exact shrFlag_eq_zero_or_one _
  | drw => cases h; rw [State.reg_setReg_self]; exact flagByte_eq_zero_or_one _
  | _ => cases hflag

/-! ### The sound timer (10_state.md R29) -/

theorem State.storeRange_setSound (s : State) (b : Byte) (n : Nat) :
    (s.setSound b).storeRange n = (s.storeRange n).setSound b := by
  induction n with
  | zero => rfl
  | succ k ih => rw [State.storeRange, ih]; rfl

theorem State.loadRange_setSound (s : State) (b : Byte) (n : Nat) :
    (s.setSound b).loadRange n = (s.loadRange n).setSound b := by
  induction n with
  | zero => rfl
  | succ k ih => rw [State.loadRange, ih]; rfl

theorem State.drawRows_setSound (s : State) (b : Byte) (x0 y0 : Nat) (c : Screen × Bool) (r : Nat) :
    (s.setSound b).drawRows x0 y0 c r = s.drawRows x0 y0 c r := by
  induction r with
  | zero => rfl
  | succ k ih => rw [State.drawRows, ih]; rfl

theorem State.drawn_setSound (s : State) (b x0 y0 : Byte) (n : Nibble) :
    (s.setSound b).drawn x0 y0 n = s.drawn x0 y0 n :=
  s.drawRows_setSound b _ _ _ _

/-- Settles O13: every test and every operand is read from another part of the state, so the two
executions make the same updates. -/
theorem soundTimerIsNeverRead : Obligations.SoundTimerIsNeverRead := by
  intro i s t b h
  cases i with
  | ret u =>
    obtain ⟨hsp, rfl⟩ | ⟨hsp, rfl⟩ := exec_ret_cases h
    · exact ⟨_, exec_ret_empty _ u hsp, rfl, fun _ => rfl⟩
    · exact ⟨_, exec_ret_some _ u hsp, rfl, fun _ => rfl⟩
  | call nnn =>
    obtain ⟨hsp, rfl⟩ | ⟨hsp, rfl⟩ := exec_call_cases h
    · exact ⟨_, exec_call_full _ nnn hsp, rfl, fun _ => rfl⟩
    · exact ⟨_, exec_call_room _ nnn hsp, rfl, fun _ => rfl⟩
  | ldVxK x =>
    obtain ⟨hkey, rfl⟩ := exec_ldVxK_cases h
    exact ⟨_, exec_ldVxK_delivered _ x hkey, rfl, fun _ => rfl⟩
  | drw x y n =>
    cases h
    refine ⟨_, exec_drw _ x y n, rfl, fun _ => ?_⟩
    rw [State.drawn_setSound]; rfl
  | stRegs x =>
    cases h
    refine ⟨_, exec_stRegs _ x, ?_, fun _ => ?_⟩ <;> rw [State.storeRange_setSound] <;> rfl
  | ldRegs x =>
    cases h
    refine ⟨_, exec_ldRegs _ x, ?_, fun _ => ?_⟩ <;> rw [State.loadRange_setSound] <;> rfl
  | _ => cases h; exact ⟨_, rfl, rfl, fun _ => rfl⟩

end Sys2Proof.Machine
end

section
/-! The whole cycle (40_cycle.md R107 to R109): what runs, what it ends with, where `pc` stands
after it, when it never returns, and a finished program. -/

namespace Sys2Proof.Machine

/-! ### The instruction at `pc` -/

theorem State.decode_fetch {s : State} {i : Instr} :
    decode [s.readByte s.pc.toNat, s.readByte (s.pc.toNat + 1)] = .ok (i, []) ↔
      decodeOpcode s.fetch = .ok i :=
  decode_pair_eq_ok

/-- The step of a ready core in the program area at a legal opcode. -/
theorem step_runs {s : State} {i : Instr} (h : s.status = .ready) (hp : s.pcInRange = true)
    (hd : decodeOpcode s.fetch = .ok i) : step s = exec i s.beforeCycle.advancePc :=
  s.beforeCycle.cycle_runs i (s.beforeCycle_status.trans h) (s.pcInRange_beforeCycle.trans hp)
    ((congrArg decodeOpcode s.fetch_beforeCycle).trans hd)

theorem State.beforeCycle_ready {s : State} (h : s.status = .ready) :
    s.beforeCycle = { s with
      dt := timerAfter (Config.ticksBefore s.cycles) s.dt
      st := timerAfter (Config.ticksBefore s.cycles) s.st
      cycles := s.cycles + 1 } := by
  rw [State.beforeCycle, s.ticks_ready _ h]

/-- Settles O6: the cycle's tests pass, and what precedes it is the ticks and the count. -/
theorem stepRunsDecodedInstruction : Obligations.StepRunsDecodedInstruction := by
  intro s i h hlo hhi hd
  rw [step_runs h (s.pcInRange_iff.2 ⟨hlo, hhi⟩) (State.decode_fetch.1 hd),
    State.beforeCycle_ready h]
  rfl

/-- Settles O8: the ticks leave `STATUS`, and the first test of the cycle is on it. -/
theorem haltedIsTerminal : Obligations.HaltedIsTerminal := by
  intro s c h
  refine ⟨s.beforeCycle.cycle_halted c (s.beforeCycle_status.trans h), ?_⟩
  simp [State.serve, State.serveCycle, s.cycle_halted c h]

/-! ### The wait that never ends (46_keypad.md R190) -/

theorem State.stalls_iff (s : State) : s.Stalls ↔
    s.pcInRange = true ∧ s.noKeyAt = some s.draws ∧ ∃ x, decodeOpcode s.fetch = .ok (.ldVxK x) := by
  simp only [State.Stalls, s.pcInRange_iff, State.decode_fetch, and_assoc]

theorem State.stalls_beforeCycle (s : State) : s.beforeCycle.Stalls ↔ s.Stalls := by
  simp [State.stalls_iff]

theorem State.cycle_stalled {s : State} (h : s.status = .ready) (hs : s.Stalls) :
    s.cycle = .fault .noKey := by
  obtain ⟨hp, hkey, x, hd⟩ := s.stalls_iff.1 hs
  rw [s.cycle_runs _ h hp hd]
  exact exec_ldVxK_stuck _ x hkey

/-! ### `STATUS` after a cycle (40_cycle.md R109) -/

theorem State.pcInRange_eq_false_iff (s : State) :
    s.pcInRange = false ↔ s.pc.toNat < 0x200 ∨ s.pc.toNat > 0xE9F := by
  rw [← Bool.not_eq_true, s.pcInRange_iff]; omega

theorem State.not_outOfRange (s : State) (hp : s.pcInRange = true) :
    ¬ (s.pc.toNat < 0x200 ∨ s.pc.toNat > 0xE9F) := by
  rw [← s.pcInRange_eq_false_iff, hp]; exact Bool.noConfusion

theorem State.statusAfterCycle_outOfRange {s : State} (hp : s.pcInRange = false) :
    s.statusAfterCycle = .halted .pcOutOfBounds :=
  if_pos (s.pcInRange_eq_false_iff.1 hp)

theorem State.statusAfterCycle_illegal {s : State} {e : DecodeError} (hp : s.pcInRange = true)
    (hd : decodeOpcode s.fetch = .error e) : s.statusAfterCycle = .halted .invalidOpcode := by
  rw [State.statusAfterCycle, if_neg (s.not_outOfRange hp), decode_pair_error hd]

theorem State.statusAfterCycle_runs {s : State} {i : Instr} (h : s.status = .ready)
    (hp : s.pcInRange = true) (hd : decodeOpcode s.fetch = .ok i) :
    s.statusAfterCycle = s.statusAfterExec i := by
  rw [State.statusAfterCycle, if_neg (s.not_outOfRange hp), State.decode_fetch.2 hd]
  cases i with
  | call => rw [State.statusAfterExec, h]; rfl
  | ret => rw [State.statusAfterExec, h]
  | _ => exact h.symm

theorem State.statusAfterCycle_beforeCycle (s : State) :
    s.beforeCycle.statusAfterCycle = s.statusAfterCycle := by
  simp [State.statusAfterCycle]

/-- A cycle of a ready core that is not stuck completes, by the tests in their order. -/
theorem State.cycle_answers {s : State} (h : s.status = .ready) (hs : ¬ s.Stalls) :
    ∃ t, s.cycle = .next t ∧ t.status = s.statusAfterCycle := by
  match hp : s.pcInRange with
  | false => exact ⟨_, s.cycle_outOfRange h hp, (State.statusAfterCycle_outOfRange hp).symm⟩
  | true =>
    match hd : decodeOpcode s.fetch with
    | .error e => exact ⟨_, s.cycle_illegal e h hp hd, (State.statusAfterCycle_illegal hp hd).symm⟩
    | .ok i =>
      rw [s.cycle_runs i h hp hd, State.statusAfterCycle_runs h hp hd]
      refine exec_answers i s.advancePc ?_
      rintro ⟨x, rfl⟩ hkey
      exact hs (s.stalls_iff.2 ⟨hp, hkey, x, hd⟩)

/-- Settles O7: the ticks change nothing the cycle tests, and the cycle is stuck or ends by its
tests. -/
theorem cycleHaltsExactlyWhen : Obligations.CycleHaltsExactlyWhen := by
  intro s h
  have hb : s.beforeCycle.status = .ready := s.beforeCycle_status.trans h
  refine ⟨fun hs => State.cycle_stalled hb (s.stalls_beforeCycle.2 hs), fun hs => ?_⟩
  rw [← s.statusAfterCycle_beforeCycle]
  exact State.cycle_answers hb (mt s.stalls_beforeCycle.1 hs)

theorem State.serve_cycle_stalled {s : State} (h : s.status = .ready) (hs : s.Stalls) :
    s.serve .cycle = none := by
  simp [State.serve, State.serveCycle, State.cycle_stalled h hs]

theorem State.serve_cycle_next {s t : State} (h : s.cycle = .next t) :
    s.serve .cycle = some (.status t.status, t) := by
  simp [State.serve, State.serveCycle, h]

/-- Settles O55: a cycle request alone can stay unanswered, and does exactly where the cycle is
stuck. -/
theorem stalledCycleNeverReturns : Obligations.StalledCycleNeverReturns := by
  refine ⟨fun s rs h hs => ?_, fun s r hr => ?_⟩
  · have hserve := State.serve_cycle_stalled h hs
    exact ⟨hserve, by simp [State.serveAll, hserve]⟩
  · cases r with
    | cycle =>
      match h : s.status with
      | .halted c => exact ⟨_, (haltedIsTerminal s c h).2⟩
      | .ready =>
        obtain ⟨t, hcycle, -⟩ := State.cycle_answers h (hr rfl h)
        exact ⟨_, State.serve_cycle_next hcycle⟩
    | load rom =>
      match h : s.load rom with
      | some t => exact ⟨(.done, t), by simp [State.serve, h]⟩
      | none => exact ⟨(.romTooLarge, s), by simp [State.serve, h]⟩
    | reset | timerTick | readFramebuffer | readStatus => exact ⟨_, rfl⟩

/-! ### `pc` after a cycle (40_cycle.md R108) -/

theorem State.skipIf_advancePc_pc (s : State) (taken : Bool) :
    (s.advancePc.skipIf taken).pc = if taken then s.pc + 4 else s.pc + 2 := by
  simp [instrBytes, BitVec.add_assoc]

theorem State.skipIf_not_advancePc_pc (s : State) (taken : Bool) :
    (s.advancePc.skipIf (!taken)).pc = if taken then s.pc + 2 else s.pc + 4 := by
  rw [State.skipIf_advancePc_pc]; cases taken <;> rfl

/-- An instruction that completes leaves the `pc` of the table; the others leave the advanced one.
-/
theorem exec_pc {i : Instr} {s t : State} (h : exec i s.advancePc = .next t)
    (hready : t.status = .ready) : t.pc = s.pcAfter s.pc i := by
  cases i with
  | ret =>
    obtain ⟨-, rfl⟩ | ⟨-, rfl⟩ := exec_ret_cases h
    · cases hready
    · rfl
  | call =>
    obtain ⟨-, rfl⟩ | ⟨-, rfl⟩ := exec_call_cases h
    · cases hready
    · rfl
  | seImm | seReg => cases h; exact (s.skipIf_advancePc_pc _).trans (by simp [State.pcAfter])
  | sneImm | sneReg => cases h; exact (s.skipIf_not_advancePc_pc _).trans (by simp [State.pcAfter])
  | skp => cases h; exact s.skipIf_advancePc_pc _
  | sknp => cases h; exact s.skipIf_not_advancePc_pc _
  | ldVxK => obtain ⟨-, rfl⟩ := exec_ldVxK_cases h; rfl
  | stRegs => cases h; rw [State.storeRange_eq]; rfl
  | ldRegs => cases h; rw [State.loadRange_eq]; rfl
  | _ => cases h; rfl

@[simp] theorem State.keyDown_beforeCycle (s : State) (k : Byte) :
    s.beforeCycle.keyDown k = s.keyDown k := by
  simp [State.keyDown]

theorem State.pcAfter_beforeCycle (s : State) (p : PcWord) (i : Instr) :
    s.beforeCycle.pcAfter p i = s.pcAfter p i := by
  cases i <;> simp [State.pcAfter, State.offsetTarget, State.stackEntry]

/-- Settles O10: the step runs the instruction after the ticks, which touch nothing the table
reads. -/
theorem pcAfterCompletedCycle : Obligations.PcAfterCompletedCycle := by
  intro s t i h hlo hhi hd hstep hready
  rw [step_runs h (s.pcInRange_iff.2 ⟨hlo, hhi⟩) (State.decode_fetch.1 hd)] at hstep
  rw [exec_pc hstep hready, s.pcAfter_beforeCycle, s.beforeCycle_pc]

/-! ### The end of a run (70_reset_and_hazards.md R248, R249) -/

theorem State.advancePc_setPc (s : State) : s.advancePc.setPc s.pc = s := rfl

theorem absTarget_setWidth {p : PcWord} (h : p.toNat < 4096) : absTarget (p.setWidth 12) = p := by
  apply BitVec.eq_of_toNat_eq
  rw [absTarget_toNat, BitVec.toNat_setWidth, Nat.mod_eq_of_lt h]

/-- A jump to its own address undoes the advance of `pc`: the step is the ticks before it. -/
theorem State.Finished.step_eq {s : State} (h : s.Finished) : step s = .next s.beforeCycle := by
  obtain ⟨hready, hp, hfetch⟩ := h
  have hd : decodeOpcode s.fetch = .ok (.jp (s.pc.setWidth 12)) :=
    decodeOpcode_eq_ok.2 hfetch.symm
  have htarget : absTarget (s.pc.setWidth 12) = s.pc :=
    absTarget_setWidth (by have := (s.pcInRange_iff.1 hp).2; omega)
  rw [step_runs hready hp hd, exec_jp, htarget, ← s.beforeCycle_pc, State.advancePc_setPc]

/-- What precedes a cycle changes the timers and the cycle counter alone. -/
theorem frame_beforeCycle (s : State) : Frame [] [] [.delay, .sound, .cycles] s s.beforeCycle := by
  refine frame_of_v_mem s.beforeCycle_v s.beforeCycle_mem fun p hp => ?_
  cases p with
  | delay | sound | cycles => simp at hp
  | _ => simp [StatePart.Same]

/-- Settles O53: the step is the ticks before it, and a timer never grows by a tick. -/
theorem finishedStaysFinished : Obligations.FinishedStaysFinished := by
  intro s h
  refine ⟨s.beforeCycle, h.step_eq, ?_, frame_beforeCycle s, ?_, ?_⟩
  · simpa [State.Finished] using h
  · rw [State.beforeCycle_ready h.1, timerAfter_toNat]; exact Nat.sub_le ..
  · rw [State.beforeCycle_ready h.1, timerAfter_toNat]; exact Nat.sub_le ..

/-- Settles O54: the reset core is ready at `0x200`, where memory holds the illegal opcode `0000`.
-/
theorem emptyCoreHalts : Obligations.EmptyCoreHalts := by
  have hd : decodeOpcode State.reset.beforeCycle.fetch = .error (.illegalClass0 0x00) := by
    rw [State.fetch_beforeCycle]; rfl
  exact ⟨_, State.cycle_illegal _ _ (State.beforeCycle_status _) (State.pcInRange_beforeCycle _) hd,
    rfl⟩

end Sys2Proof.Machine
end

section
/-! The display instructions (41_display.md): which pixels a drawn sprite covers, what the draw does
to them and when it collides. -/

namespace Sys2Proof.Machine

/-- Settles O17: the meaning writes the clear framebuffer and nothing else. -/
theorem clsClearsEveryPixel : Obligations.ClsClearsEveryPixel :=
  ⟨fun u => decodeOpcode_encode (.cls u),
    fun u s => ⟨_, exec_cls s u, Screen.at_clear, frame_setScreen s _⟩⟩

/-! ### The pixels of a draw -/

theorem State.spriteCovers_iff (s : State) (x0 y0 n : Nat) (px : Fin 64) (py : Fin 32) :
    s.SpriteCovers x0 y0 n px py ↔ s.spriteHits x0 y0 px py n = true := by
  simp only [State.SpriteCovers, State.spriteHits_iff, Fin.ext_iff, colIx, rowIx, Fin.val_ofNat,
    State.dataAddr, State.readByte_mod]

theorem State.at_drawn (s : State) (x0 y0 : Byte) (n : Nibble) (px : Fin 64) (py : Fin 32) :
    Screen.at (s.drawn x0 y0 n).1 px py =
      (s.pixel px py ^^ s.spriteHits x0.toNat y0.toNat px py n.toNat) :=
  s.at_drawRows _ _ _ _ (by have := n.isLt; omega) px py

theorem State.at_drawn_of_covers {s : State} {x0 y0 : Byte} {n : Nibble} {px : Fin 64} {py : Fin 32}
    (h : s.SpriteCovers x0.toNat y0.toNat n.toNat px py) :
    Screen.at (s.drawn x0 y0 n).1 px py = !s.pixel px py := by
  rw [s.at_drawn, (s.spriteCovers_iff ..).1 h, Bool.xor_true]

theorem State.at_drawn_of_not_covers {s : State} {x0 y0 : Byte} {n : Nibble} {px : Fin 64}
    {py : Fin 32} (h : ¬ s.SpriteCovers x0.toNat y0.toNat n.toNat px py) :
    Screen.at (s.drawn x0 y0 n).1 px py = s.pixel px py := by
  rw [s.spriteCovers_iff, Bool.not_eq_true] at h
  rw [s.at_drawn, h, Bool.xor_false]

theorem State.collides_drawn (s : State) (x0 y0 : Byte) (n : Nibble) :
    (s.drawn x0 y0 n).2 = true ↔
      ∃ px py, s.SpriteCovers x0.toNat y0.toNat n.toNat px py ∧ s.pixel px py = true := by
  rw [State.drawn, s.collides_drawRows _ _ _ _ (by have := n.isLt; omega)]
  simp [State.spriteCovers_iff, State.pixel]

/-- Settles O18: the rows are drawn one by one, none over another, so a covered pixel is inverted
once. -/
theorem drwInvertsCoveredPixels : Obligations.DrwInvertsCoveredPixels := by
  refine ⟨fun x y n => decodeOpcode_encode (.drw (regOfNibble x) (regOfNibble y) n),
    fun x y n s => ⟨_, exec_drw s x y n, fun px py h => State.at_drawn_of_covers h,
      fun px py h => State.at_drawn_of_not_covers h, fun h => ?_, fun h => ?_,
      frame_setScreen_setReg s _ _ _⟩⟩
  · rw [State.reg_setReg_self, (s.collides_drawn ..).2 h]; rfl
  · have hfree : (s.drawn (s.reg x) (s.reg y) n).2 = false := by
      rw [← Bool.not_eq_true, s.collides_drawn]
      rintro ⟨px, py, hcov, hset⟩
      simp [h px py hcov] at hset
    rw [State.reg_setReg_self, hfree]; rfl

/-- Which pixels a sprite covers depends on `I` and memory alone. -/
theorem State.spriteCovers_congr {s t : State} (hi : t.i = s.i)
    (hmem : ∀ a, t.readByte a = s.readByte a) (x0 y0 n : Nat) (px : Fin 64) (py : Fin 32) :
    t.SpriteCovers x0 y0 n px py ↔ s.SpriteCovers x0 y0 n px py := by
  simp only [State.SpriteCovers, hi, hmem]

/-- Settles O19: the first draw leaves the coordinates, `I` and memory, so the second covers the
same pixels, inverts each of them back and meets those the first one set. -/
theorem drawingTwiceRestores : Obligations.DrawingTwiceRestores := by
  intro x y n s hx hy
  obtain ⟨t, ht, hcov, hunc, -, -, hreg, hmem, hpart⟩ := drwInvertsCoveredPixels.2 x y n s
  obtain ⟨u, hu, hcov', hunc', hcoll', -, -⟩ := drwInvertsCoveredPixels.2 x y n t
  simp only [hreg x (by simpa using hx), hreg y (by simpa using hy),
    State.spriteCovers_congr (hpart .index (by simp)) fun a => hmem a (by simp)]
    at hcov' hunc' hcoll'
  refine ⟨t, u, ht, hu, Screen.ext_at fun px py => ?_, ?_⟩
  · by_cases h : s.SpriteCovers (s.reg x).toNat (s.reg y).toNat n.toNat px py
    · exact (hcov' px py h).trans (by rw [hcov px py h, Bool.not_not]; rfl)
    · exact (hunc' px py h).trans (hunc px py h)
  · rintro ⟨px, py, hclear, hset⟩
    refine hcoll' ⟨px, py, ?_, hset⟩
    by_contra h
    rw [hunc px py h, hclear] at hset
    cases hset

end Sys2Proof.Machine
end

section
/-! Jumps, call and return (42_control_flow.md). -/

namespace Sys2Proof.Machine

/-- Settles O21: class 1 is read whole, and the meaning writes the target to `pc` alone. -/
theorem jpSetsPc : Obligations.JpSetsPc :=
  ⟨fun nnn => decodeOpcode_encode (.jp nnn),
    fun nnn s => ⟨_, exec_jp s nnn, absTarget_toNat nnn, frame_setPc s _⟩⟩

/-- Settles O24: class B is read whole, and the meaning writes the sum, which 16 bits hold, to `pc`
alone. -/
theorem jpV0SetsPc : Obligations.JpV0SetsPc :=
  ⟨fun nnn => decodeOpcode_encode (.jpV0 nnn),
    fun nnn s => ⟨_, exec_jpV0 s nnn, s.offsetTarget_toNat nnn, frame_setPc s _⟩⟩

/-! ### The bytes a push stores (10_state.md R31, R33) -/

theorem stackAddr_mod {k : Nat} (h : k < stackCapacity) : stackAddr k % memSize = stackAddr k :=
  Nat.mod_eq_of_lt (Nat.lt_of_succ_lt (stackAddr_lt h))

theorem stackAddr_succ_mod {k : Nat} (h : k < stackCapacity) :
    (stackAddr k + 1) % memSize = stackAddr k + 1 :=
  Nat.mod_eq_of_lt (stackAddr_lt h)

theorem State.stackEntry_pushed_self {s : State} (a : PcWord) (h : s.sp < stackCapacity) :
    (s.pushed a).stackEntry s.sp = a :=
  s.stackEntry_pushed a _ h

theorem State.highByte_stackEntry (s : State) (k : Nat) :
    highByte (s.stackEntry k) = s.readByte (stackAddr k) :=
  highByte_joinBytes _ _

theorem State.lowByte_stackEntry (s : State) (k : Nat) :
    lowByte (s.stackEntry k) = s.readByte (stackAddr k + 1) :=
  lowByte_joinBytes _ _

theorem State.readByte_pushed_high {s : State} (a : PcWord) (h : s.sp < stackCapacity) :
    (s.pushed a).readByte (stackAddr s.sp) = highByte a := by
  rw [← State.highByte_stackEntry, State.stackEntry_pushed_self a h]

theorem State.readByte_pushed_low {s : State} (a : PcWord) (h : s.sp < stackCapacity) :
    (s.pushed a).readByte (stackAddr s.sp + 1) = lowByte a := by
  rw [← State.lowByte_stackEntry, State.stackEntry_pushed_self a h]

/-- Settles O20: the newest entry goes to `pc` whole, and no byte is stored; with no entry the test
raises. -/
theorem retPops : Obligations.RetPops := by
  refine ⟨fun u => decodeOpcode_encode (.ret u), fun u s h => ?_,
    fun u s h => ⟨_, exec_ret_empty s u h, rfl⟩⟩
  refine ⟨_, exec_ret_some s u h, s.highByte_stackEntry _, s.lowByte_stackEntry _, rfl, ?_⟩
  exact (frame_setDepth_setPc s _ _).mono (by simp) (by simp) (by simp)

/-- Settles O22: a call with room stores the two bytes of its entry, inside memory, counts and
jumps; with the stack full the test raises. -/
theorem callPushesAndJumps : Obligations.CallPushesAndJumps := by
  refine ⟨fun nnn => decodeOpcode_encode (.call nnn), fun nnn s h => ?_,
    fun nnn s h => ⟨_, exec_call_full s nnn h, rfl⟩⟩
  refine ⟨_, exec_call_room s nnn (Nat.ne_of_lt h), State.readByte_pushed_high s.pc h,
    State.readByte_pushed_low s.pc h, rfl, absTarget_toNat nnn, ?_⟩
  have hframe := frame_pushed_setPc s s.pc (absTarget nnn)
  rw [stackAddr_mod h, stackAddr_succ_mod h] at hframe
  exact hframe.mono (by simp) (by simp) (by simp)

/-- Settles O23: the return reads the entry the call wrote, byte by byte as the call left it. -/
theorem callThenReturnComesBack : Obligations.CallThenReturnComesBack := by
  intro nnn k s u h
  refine ⟨_, exec_call_room s nnn (Nat.ne_of_lt h), fun hsp hhigh hlow => ?_⟩
  have hdepth : u.sp = s.sp + 1 := hsp
  have hentry : u.stackEntry s.sp = s.pc := by
    rw [State.stackEntry, hhigh, hlow]
    exact State.stackEntry_pushed_self s.pc h
  refine ⟨_, exec_ret_some u k (by omega), ?_, ?_⟩
  · rw [State.setPc_pc, hdepth, Nat.add_sub_cancel, hentry]
  · rw [State.setPc_sp, State.setDepth_sp, hdepth, Nat.add_sub_cancel]

end Sys2Proof.Machine
end

section
/-! The arithmetic instructions with a flag, and the random byte (44_load_alu.md R157 to R162). -/

namespace Sys2Proof.Machine

/-- An instruction that writes its result and then its flag (44_load_alu.md R164). -/
theorem answers_of_exec_eq_setResultThenFlag {i : Instr} {s : State} {x : RegIx}
    {result flag : Byte} (hexec : exec i s = .next (s.setResultThenFlag x result flag)) :
    Answers i s fun t =>
      t.reg vf = flag ∧ (x ≠ vf → t.reg x = result) ∧ Frame [x, vf] [] [] s t :=
  ⟨_, hexec, s.reg_vf_setResultThenFlag x _ _, s.reg_setResultThenFlag_self _ _,
    frame_setResultThenFlag s x _ _⟩

/-- An instruction that writes its flag and then its result (44_load_alu.md R164). -/
theorem answers_of_exec_eq_setFlagThenResult {i : Instr} {s : State} {x : RegIx}
    {result flag : Byte} (hexec : exec i s = .next (s.setFlagThenResult x result flag)) :
    Answers i s fun t =>
      t.reg x = result ∧ (x ≠ vf → t.reg vf = flag) ∧ Frame [x, vf] [] [] s t :=
  ⟨_, hexec, s.reg_setFlagThenResult_self x _ _, s.reg_vf_setFlagThenResult _ _,
    frame_setFlagThenResult s x _ _⟩

/-- Settles O31: the meaning writes the 9-bit sum's low byte, then its carry. -/
theorem addRegSumAndCarry : Obligations.AddRegSumAndCarry := by
  refine ⟨fun x y => decodeOpcode_encode (.addReg (regOfNibble x) (regOfNibble y)), fun x y s => ?_⟩
  refine (answers_of_exec_eq_setResultThenFlag (exec_addReg s x y)).imp
    fun t ⟨hflag, hresult, hframe⟩ => ⟨?_, fun hx => ?_, hframe⟩
  · rw [hflag, addCarry_toNat]
  · rw [hresult hx, addResult_toNat]

/-- What `8XY5` and `8XY7` share: the no-borrow flag of `a - b`, then the difference. -/
theorem answers_of_exec_eq_sub {i : Instr} {s : State} {x : RegIx} {a b : Byte}
    (hexec : exec i s = .next (s.setFlagThenResult x (subResult a b) (subNoBorrow a b))) :
    Answers i s fun t => (t.reg x).toNat = (a.toNat + 256 - b.toNat) % 256 ∧
      (x ≠ vf → (t.reg vf).toNat = if a.toNat ≥ b.toNat then 1 else 0) ∧
      Frame [x, vf] [] [] s t := by
  refine (answers_of_exec_eq_setFlagThenResult hexec).imp
    fun t ⟨hresult, hflag, hframe⟩ => ⟨?_, fun hx => ?_, hframe⟩
  · rw [hresult, subResult_toNat]
  · rw [hflag hx, subNoBorrow_toNat]

/-- Settles O32: the two instructions are one subtraction, the operands one way and the other. -/
theorem subFlagAndDifference : Obligations.SubFlagAndDifference :=
  ⟨fun x y => ⟨decodeOpcode_encode (.sub (regOfNibble x) (regOfNibble y)),
      decodeOpcode_encode (.subn (regOfNibble x) (regOfNibble y))⟩,
    fun x y s =>
      ⟨answers_of_exec_eq_sub (exec_sub s x y), answers_of_exec_eq_sub (exec_subn s x y)⟩⟩

/-- Settles O33: each meaning writes the bit shifted out, then the shifted value, and `Y` is decoded
but not read. -/
theorem shiftFlagAndResult : Obligations.ShiftFlagAndResult := by
  refine ⟨fun x y => ⟨decodeOpcode_encode (.shr (regOfNibble x) (regOfNibble y)),
    decodeOpcode_encode (.shl (regOfNibble x) (regOfNibble y))⟩, fun x y s => ⟨?_, ?_⟩⟩
  · refine (answers_of_exec_eq_setFlagThenResult (exec_shr s x y)).imp
      fun t ⟨hresult, hflag, hframe⟩ => ⟨?_, fun hx => ?_, hframe⟩
    · rw [hresult, shrResult_toNat]
    · rw [hflag hx, shrFlag_toNat]
  · refine (answers_of_exec_eq_setFlagThenResult (exec_shl s x y)).imp
      fun t ⟨hresult, hflag, hframe⟩ => ⟨?_, fun hx => ?_, hframe⟩
    · rw [hresult, shlResult_toNat]
    · rw [hflag hx, shlFlag_toNat]

/-- Settles O34: the meaning writes the port's answer under the mask, and counts the request. -/
theorem rndMasksFreeByte : Obligations.RndMasksFreeByte := by
  refine ⟨fun x nn => decodeOpcode_encode (.rnd (regOfNibble x) nn), fun x nn s => ?_⟩
  have hreg : (s.setReg x (s.randomByte &&& nn)).answered.reg x =
      Config.randomByte s.draws &&& nn :=
    s.reg_setReg_self x _
  refine ⟨_, exec_rnd s x nn, hreg, ?_, rfl, frame_setReg_answered s x _⟩
  rw [hreg, BitVec.and_assoc, BitVec.and_not_self]; exact BitVec.and_zero

end Sys2Proof.Machine
end

section
/-! The font address, the digits and the block transfers (45_index_memory.md R173 to R177), and the
masking of addresses (20_memory.md R52, R60). -/

namespace Sys2Proof.Machine

/-- Settles O37: the meaning writes the glyph's address to `I` alone. -/
theorem ldFPointsAtGlyph : Obligations.LdFPointsAtGlyph := by
  refine ⟨fun x => decodeOpcode_encode (.ldF (regOfNibble x)), fun x s => ?_⟩
  refine (answers_of_exec_eq_setIndex (exec_ldF s x)).imp fun t ⟨hindex, hframe⟩ => ⟨?_, hframe⟩
  rw [hindex, glyphAddr_toNat]

theorem State.dataAddr_ne (s : State) {j k : Nat} (h : j ≠ k) (hj : j < memSize)
    (hk : k < memSize) : s.dataAddr j % memSize ≠ s.dataAddr k % memSize := by
  rw [s.dataAddr_mod, s.dataAddr_mod]
  exact fun e => h (s.dataAddr_inj e hj hk)

/-- Settles O38: the three addresses differ, so each holds the digit stored there. -/
theorem ldBStoresDigits : Obligations.LdBStoresDigits := by
  refine ⟨fun x => decodeOpcode_encode (.ldB (regOfNibble x)), fun x s => ?_⟩
  have h01 := s.dataAddr_ne (j := 0) (k := 1) (by decide) (by decide) (by decide)
  have h02 := s.dataAddr_ne (j := 0) (k := 2) (by decide) (by decide) (by decide)
  have h12 := s.dataAddr_ne (j := 1) (k := 2) (by decide) (by decide) (by decide)
  refine ⟨_, exec_ldB s x, ?_, ?_, ?_, frame_writeByte_dataAddr s _ _ _⟩
  · change (State.readByte _ (s.dataAddr 0)).toNat = _
    rw [State.readByte_writeByte_ne _ _ _ _ h02, State.readByte_writeByte_ne _ _ _ _ h01,
      State.readByte_writeByte_self, hundreds_toNat]
  · change (State.readByte _ (s.dataAddr 1)).toNat = _
    rw [State.readByte_writeByte_ne _ _ _ _ h12, State.readByte_writeByte_self, tens_toNat]
  · change (State.readByte _ (s.dataAddr 2)).toNat = _
    rw [State.readByte_writeByte_self, ones_toNat]

/-! ### Block transfers -/

/-- The byte a block store up to `V[X]` leaves for each of its registers. -/
theorem State.readByte_storeRange_reg (s : State) {x r : RegIx} (h : r.val ≤ x.val) :
    (s.storeRange (x.val + 1)).readByte (s.dataAddr r.val) = s.reg r := by
  rw [(s.readByte_storeRange (x.val + 1) (by omega) 0).1 r.val (by omega), regNo_self]

/-- The byte a block load up to `V[X]` brings into each of its registers. -/
theorem State.reg_loadRange_of_le (s : State) {x r : RegIx} (h : r.val ≤ x.val) :
    (s.loadRange (x.val + 1)).reg r = s.readByte (s.dataAddr r.val) := by
  rw [s.reg_loadRange (x.val + 1) (by omega), if_pos (by omega)]

theorem State.reg_loadRange_of_lt (s : State) {x r : RegIx} (h : x.val < r.val) :
    (s.loadRange (x.val + 1)).reg r = s.reg r := by
  rw [s.reg_loadRange (x.val + 1) (by omega), if_neg (by omega)]

/-- Settles O39: the stores are at pairwise different addresses, wrapped or not, and at no other. -/
theorem stRegsStoresRange : Obligations.StRegsStoresRange :=
  ⟨fun x => decodeOpcode_encode (.stRegs (regOfNibble x)),
    fun x s => ⟨_, exec_stRegs s x, fun _ => s.readByte_storeRange_reg,
      frame_storeRange s (by omega)⟩⟩

/-- Settles O40: the loads are into pairwise different registers, and none touches `I` or memory. -/
theorem ldRegsLoadsRange : Obligations.LdRegsLoadsRange :=
  ⟨fun x => decodeOpcode_encode (.ldRegs (regOfNibble x)),
    fun x s => ⟨_, exec_ldRegs s x, fun _ => s.reg_loadRange_of_le, fun _ => s.reg_loadRange_of_lt,
      frame_loadRange s (by omega)⟩⟩

/-- Settles O41: with the same `I` and memory the load reads each register's byte where the store
put it. -/
theorem storeThenLoadRestores : Obligations.StoreThenLoadRestores := by
  intro x s u
  refine ⟨_, exec_stRegs s x, fun hmem hi => ⟨_, exec_ldRegs u x, fun r hr => ?_⟩⟩
  have hindex : u.i = s.i := by rw [hi, State.storeRange_eq]
  rw [u.reg_loadRange_of_le hr, ← s.readByte_storeRange_reg hr, State.readByte, State.readByte,
    hmem, State.dataAddr, State.dataAddr, hindex]

/-- Settles O42: the store's first two bytes lie at `pc` and after it, where the fetch reads. -/
theorem storeIsSeenByFetch : Obligations.StoreIsSeenByFetch := by
  intro x s hi hx
  have hx' : (1 : RegIx).val ≤ x.val := Nat.one_le_iff_ne_zero.2 fun e => hx (Fin.ext e)
  have hpc : (s.storeRange (x.val + 1)).pc = s.pc := by rw [State.storeRange_eq]
  refine ⟨_, exec_stRegs s x, ?_, ?_⟩
  · rw [State.fetch, opcodeOfBytes, highByte_joinBytes, hpc, ← hi, ← State.readByte_mod]
    exact s.readByte_storeRange_reg (r := 0) (Nat.zero_le _)
  · rw [State.fetch, opcodeOfBytes, lowByte_joinBytes, hpc, ← hi, ← State.readByte_mod]
    exact s.readByte_storeRange_reg (r := 1) hx'

/-- Settles O43: every access reduces its address modulo 4096 first. -/
theorem addressesAreMasked : Obligations.AddressesAreMasked := by
  intro s a x b
  have hmask : (a + 4096) % memSize = a % memSize := Nat.add_mod_right a memSize
  refine ⟨?_, ?_, s.readByte_writeByte a x b⟩
  · rw [State.readByte, hmask, State.readByte]
  · rw [State.writeByte, hmask, State.writeByte]

end Sys2Proof.Machine
end

section
/-! The keypad (46_keypad.md R187 to R190). -/

namespace Sys2Proof.Machine

/-- Settles O44: each meaning asks the port about all of `V[X]`, skips on the answer or on its
complement, and counts the request. -/
theorem keySkipsAreComplements : Obligations.KeySkipsAreComplements := by
  refine ⟨fun x => ⟨decodeOpcode_encode (.skp (regOfNibble x)),
    decodeOpcode_encode (.sknp (regOfNibble x))⟩, fun x s => ⟨?_, ?_⟩⟩
  · exact ⟨_, exec_skp s x, rfl, rfl, frame_skipIf_answered s _⟩
  · refine ⟨_, exec_sknp s x, ?_, rfl, frame_skipIf_answered s _⟩
    rw [State.answered_pc, State.skipIf_pc, State.keyDown]
    cases Config.keyDown s.draws (s.reg x) <;> rfl

/-- Settles O45: the meaning writes the delivered key whole and counts the request, or is stuck. -/
theorem waitKeyStoresDeliveredKey : Obligations.WaitKeyStoresDeliveredKey :=
  ⟨fun x => decodeOpcode_encode (.ldVxK (regOfNibble x)),
    fun x s h => ⟨_, exec_ldVxK_delivered s x h, s.reg_setReg_self x _, rfl,
      frame_setReg_answered s x _⟩,
    fun x s h => exec_ldVxK_stuck s x h⟩

end Sys2Proof.Machine
end

section
/-! Timer ticks, reset, load and the framebuffer read-out (60_exceptions.md sections 5 to 7,
70_reset_and_hazards.md sections 1 and 2). -/

namespace Sys2Proof.Machine

/-! ### Timers -/

/-- Ticks change the two timers alone. -/
theorem frame_ticks (s : State) (n : Nat) : Frame [] [] [.delay, .sound] s (s.ticks n) := by
  refine frame_of_v_mem (s.ticks_v n) (s.ticks_mem n) fun p hp => ?_
  cases p with
  | delay | sound => simp at hp
  | _ => simp [StatePart.Same]

/-- Settles O48: one tick subtracts 1 in the natural numbers, where 0 stays 0; a halted core has no
ticks. -/
theorem timerTickCountsDown : Obligations.TimerTickCountsDown := by
  refine ⟨fun s h => ⟨?_, ?_, frame_ticks s 1⟩, fun s c h => s.ticks_halted 1 c h⟩
  · rw [State.timerTick, s.ticks_ready 1 h, timerAfter_toNat]
  · rw [State.timerTick, s.ticks_ready 1 h, timerAfter_toNat]

theorem timerAfter_zero_left (b : Byte) : timerAfter 0 b = b :=
  BitVec.eq_of_toNat_eq (timerAfter_toNat 0 b)

theorem timerAfter_succ (n : Nat) (b : Byte) :
    timerAfter (n + 1) b = timerAfter n (timerAfter 1 b) := by
  apply BitVec.eq_of_toNat_eq
  rw [timerAfter_toNat, timerAfter_toNat, timerAfter_toNat]
  omega

/-- Settles O49: the ready core's timers count down one after another, the halted core's not at
all. -/
theorem ticksAreSingleTicks : Obligations.TicksAreSingleTicks := by
  intro s n
  match h : s.status with
  | .halted c => simp [State.timerTick, State.ticks_halted _ _ c h]
  | .ready =>
    refine ⟨?_, ?_⟩
    · rw [s.ticks_ready 0 h, timerAfter_zero_left, timerAfter_zero_left]
    · rw [State.timerTick, State.ticks_ready _ n ((s.ticks_status 1).trans h), s.ticks_ready _ h,
        s.ticks_ready _ h, timerAfter_succ n s.dt, timerAfter_succ n s.st]

/-! ### Reset -/

theorem State.reg_reset (r : RegIx) : State.reset.reg r = 0 := by
  simp [State.reg, State.reset]

theorem State.hostReset_eq_reset {s : State} (hd : s.draws = 0) (hc : s.cycles = 0)
    (hk : s.noKeyAt = none) : s.hostReset = State.reset := by
  rw [State.hostReset, hd, hc, hk]; rfl

/-- Memory that lists nothing is the font and then zeros (10_state.md R39). -/
theorem State.readByte_hostReset (s : State) (a : Nat) : s.hostReset.readByte a =
    if h : a % 4096 < font.length then font[a % 4096] else 0 := by
  change font.getD (a % 4096) 0 = _
  split
  · next h => exact List.getD_eq_getElem _ _ h
  · next h => exact List.getD_eq_default _ _ (Nat.le_of_not_lt h)

/-- Settles O50: every architectural field is the reset state's, and memory lists nothing. -/
theorem resetValues : Obligations.ResetValues := fun s =>
  ⟨State.reg_reset, rfl, rfl, rfl, rfl, rfl, rfl, Screen.at_clear, s.readByte_hostReset,
    State.hostReset_eq_reset⟩

/-! ### Load -/

theorem State.load_fits (s : State) {rom : List Byte} (h : rom.length ≤ 3232) :
    s.load rom = some ((s.writeBlock progOrigin.toNat rom).setPc progOrigin) :=
  if_pos (decide_eq_true h)

theorem State.load_tooLarge (s : State) {rom : List Byte} (h : 3232 < rom.length) :
    s.load rom = none :=
  if_neg fun e => Nat.not_le.2 h (of_decide_eq_true e)

/-- A block of stores that ends inside memory changes the bytes of its addresses alone. -/
theorem frame_writeBlock (s : State) {a : Nat} {bs : List Byte} (h : a + bs.length ≤ memSize) :
    Frame [] ((List.range bs.length).map (a + ·)) [] s (s.writeBlock a bs) := by
  refine ⟨fun r _ => ?_, fun x hx => ?_, fun p _ => ?_⟩
  · rw [State.writeBlock_eq]; rfl
  · rw [State.readByte_writeBlock bs s a h, dif_neg]
    rintro ⟨hlo, hhi⟩
    exact hx (List.mem_map.2 ⟨x % memSize - a, List.mem_range.2 (by omega), by omega⟩)
  · rw [State.writeBlock_eq]; cases p <;> rfl

theorem State.readByte_writeBlock_add (s : State) {a k : Nat} {bs : List Byte}
    (h : a + bs.length ≤ memSize) (hk : k < bs.length) :
    (s.writeBlock a bs).readByte (a + k) = bs[k] := by
  have hmod : (a + k) % memSize = a + k := Nat.mod_eq_of_lt (by omega)
  rw [State.readByte_writeBlock bs s a h, dif_pos (by omega)]
  congr 1
  omega

/-- Settles O51: a ROM that fits lies inside memory, so its bytes are stored side by side; a longer
one fails the test before any store. -/
theorem loadCopiesOrRefuses : Obligations.LoadCopiesOrRefuses := by
  intro s rom
  refine ⟨fun h => ?_, fun h => ⟨s.load_tooLarge h, ?_⟩⟩
  · have hfit : 0x200 + rom.length ≤ memSize := by rw [memSize]; omega
    exact ⟨_, s.load_fits h, rfl, fun k hk => s.readByte_writeBlock_add hfit hk,
      ((frame_writeBlock s hfit).trans (frame_setPc _ _)).mono (by simp) (by simp) (by simp)⟩
  · simp [State.serve, s.load_tooLarge h]

/-! ### The read-out -/

/-- The read-out is the flattened framebuffer. -/
theorem State.snapshot_eq_flatten (s : State) : s.snapshot = s.fb.flatten.toList := by
  change _ = (s.fb.toArray.map Vector.toArray).flatten.toList
  rw [Array.toList_flatten, Array.toList_map, List.map_map]
  rfl

/-- Settles O52: index `64 y + x` of the flattened rows is index `x` of row `y`. -/
theorem snapshotIsRowMajor : Obligations.SnapshotIsRowMajor := by
  refine fun s => ⟨?_, fun x y => ?_, rfl⟩
  · rw [s.snapshot_eq_flatten, Vector.length_toList]
  · have hdiv : (64 * y.val + x.val) / 64 = y.val := by omega
    have hmod : (64 * y.val + x.val) % 64 = x.val := by omega
    rw [s.snapshot_eq_flatten, Vector.getElem?_toList, Vector.getElem?_eq_getElem (by omega),
      Vector.getElem_flatten]
    simp only [hdiv, hmod, State.pixel, Screen.at]

end Sys2Proof.Machine
end
